-- ==== Sys2Proof/Word.lean ====
section
/-! DEFINITION. The words of the BKP-3160: the widths of its bytes, counts, offsets and positions (spec 12, R196).
The arithmetic on them that a rule fixes (forward distance, "ahead of") stands in Machine/Ops.lean. -/
namespace Sys2Proof

/-- One byte of a frame, payload or notice (R196). -/
abbrev Byte := BitVec 8

/-- A 16-bit field: item number, handle, tag, 16-bit count, hold cause set (R196). -/
abbrev Half := BitVec 16

/-- An item-relative offset or distance, 0 to 16,777,215 counts (spec 00, 'Positions and offsets'; R196). -/
abbrev Offset := BitVec 24

/-- A line position, which wraps modulo 2^32 (spec 00, 'Positions and offsets'; R6). -/
abbrev Position := BitVec 32

/-- A handle: the pool index in the low byte, the generation in the high byte (R76). -/
abbrev Handle := BitVec 16

end Sys2Proof
end

