-- ==== Sys2Proof/Syntax.lean ====
section
/-! DEFINITION. The commands and events of the BKP-3160: one constructor for each row of spec/opcode_table.json. -/
namespace Sys2Proof

/-- The three host ports (spec 00, 'Names'). -/
inductive Port where
  | A | B | C
deriving DecidableEq, Repr

/-- The steps of the part (spec 95: 'each whole and indivisible').

The operands of a command frame are the frame's own bytes. They reach the port by `commandFrameEnd` (R181) and wait
there; the row of the command names the port that takes its oldest waiting frame (log 2). -/
inductive Instr where
  /-- ATTACH, R160. -/
  | attach (p : Port)
  /-- DETACH, R163. -/
  | detach (p : Port)
  /-- PORT_RESET, R193. -/
  | portReset (p : Port)
  /-- STATUS, R192. -/
  | status (p : Port)
  /-- FETCH, R188. -/
  | fetch (p : Port)
  /-- ACK, R189. -/
  | ack (p : Port)
  /-- LEASE, R167. -/
  | lease (p : Port)
  /-- RELEASE, R168. -/
  | release (p : Port)
  /-- CONFIG_LINE, R173. -/
  | configLine (p : Port)
  /-- CONFIG_INPUT, R27. -/
  | configInput (p : Port)
  /-- CONFIG_CHANNEL, R144. -/
  | configChannel (p : Port)
  /-- WRITE_RECIPE, R61. -/
  | writeRecipe (p : Port)
  /-- ERASE_RECIPE, R64. -/
  | eraseRecipe (p : Port)
  /-- READ_RECIPE, R65. -/
  | readRecipe (p : Port)
  /-- STAGE_RECIPE, R68. -/
  | stageRecipe (p : Port)
  /-- CANCEL_STAGE, R72. -/
  | cancelStage (p : Port)
  /-- POST_ACTION, R82. -/
  | postAction (p : Port)
  /-- CANCEL_ACTION, R98. -/
  | cancelAction (p : Port)
  /-- CLEAR_CHANNEL, R97. -/
  | clearChannel (p : Port)
  /-- READ_CHANNEL, R103. -/
  | readChannel (p : Port)
  /-- VERDICT, R107. -/
  | verdict (p : Port)
  /-- READ_ITEM, R53. -/
  | readItem (p : Port)
  /-- LIST_ITEMS, R54. -/
  | listItems (p : Port)
  /-- REMOVE_ITEM, R49. -/
  | removeItem (p : Port)
  /-- PURGE_LINE, R51. -/
  | purgeLine (p : Port)
  /-- SET_HOLD, R152. -/
  | setHold (p : Port)
  /-- RELEASE_HOLD, R153. -/
  | releaseHold (p : Port)
  /-- READ_POSITION, R13. -/
  | readPosition (p : Port)
  /-- SET_POSITION, R12. -/
  | setPosition (p : Port)
  /-- RESET_DEVICE, R194. -/
  | resetDevice (p : Port)
  /-- UNKNOWN_COMMAND, R180: the oldest waiting frame of the port is malformed, or its code names no command. -/
  | unknownCommand (p : Port)
  /-- READ, R184: CSN rises on a READ transaction that clocked `clocked` whole bytes after its first. -/
  | read (p : Port) (clocked : Nat)
  /-- POWER_ON_RESET, R195: RSTN has been low for `lowNs` nanoseconds (R200). -/
  | powerOnReset (lowNs : Nat)
  /-- ENCODER_PHASE_CHANGE, R4: the raw levels of A and B become `a` and `b`. -/
  | encoderPhaseChange (a b : Bool)
  /-- ENCODER_FILTER_EXPIRY, R4: the filter of A (`a`), of B (`b`), or both at one moment, finish measuring. -/
  | encoderFilterExpiry (a b : Bool)
  /-- STANDSTILL_TIMER_EXPIRY, R9. -/
  | standstillTimerExpiry
  /-- RAW_TRANSITION, R18: the pin of detect input `k` goes to `level` (`true` is high). -/
  | rawTransition (k : Fin 8) (level : Bool)
  /-- DETECT_FILTER_EXPIRY, R19. -/
  | detectFilterExpiry (k : Fin 8)
  /-- WINDOW_TIMER_EXPIRY, R96: the window timer of the action bound in pool entry `entry`. -/
  | windowTimerExpiry (entry : Fin 256)
  /-- GAP_TIMER_EXPIRY, R140. -/
  | gapTimerExpiry (c : Fin 16)
  /-- KEEPALIVE_EXPIRY, R165. -/
  | keepaliveExpiry (p : Port)
  /-- RSTN_RISE, R15. -/
  | rstnRise
  /-- CSN_FALL, R178. -/
  | csnFall (p : Port)
  /-- REPLY_SLOT_COPY, R184: the first byte of a transaction, 0x00, has ended. -/
  | replySlotCopy (p : Port)
  /-- COMMAND_FRAME_END, R181: CSN rises on a transaction that received the whole bytes `bytes`, inside a further
  byte when `partialByte` holds. -/
  | commandFrameEnd (p : Port) (bytes : List Byte) (partialByte : Bool)
deriving DecidableEq, Repr

end Sys2Proof
end

