-- ==== Sys2Proof/Decode.lean ====
section
/-! DEFINITION. The reading of the opcode table's own bits. spec/opcode_table.json gives no row any bits, so no word
spells a command (log 10). How a command FRAME is read (R178 to R181) stands in Machine/Frames.lean. -/
namespace Sys2Proof

/-- The command that a word spells by the bits of spec/opcode_table.json: none, since no row has bits (log 10). -/
def decodeTableWord (_nbits _w : Nat) : Option Instr := none

end Sys2Proof
end

