-- ==== Sys2Proof/Config.lean ====
section
/-! DEFINITION. What the manual leaves open and the model does not fix: opaque constants with no body, so that
nothing in Lean can evaluate them or prove a value of them (log 5, 18, 19, 40, 44, 46). -/
namespace Sys2Proof

/-- FREE VALUE (log 5). The `n`-th open choice of the run, counted by `State.free`: the place of the alternative
taken, modulo the number of alternatives, where a rule says 'either may be taken first' inside one step
(R2, R8, R40, R43, R91, R117, R126, R127) or 'either ... or' (R200). -/
opaque Config.freeChoice : Nat → Nat

/-- FREE VALUE (log 18). The byte that the CONFIG_INPUT reply carries for an accepted level (`true` is ACTIVE).
R27 names the field; Chapter 12 lists no code for it. -/
opaque Config.levelCode : Bool → BitVec 8

/-- FREE VALUE (log 19). Bits 5 to 4 of a template's condition byte as READ_RECIPE returns them when the condition
kind names no port, for the `n`-th such byte returned. R196 has the field ignored when written and no rule says
what is read back. -/
opaque Config.ignoredPortBits : Nat → BitVec 2

/-- FREE VALUE (log 40). Whether the summary of ITEM_EXIT shows the pending verdict of an OPEN slot. R46 and R108 have it
show the slot as OPEN only; R198 gives an OPEN slot its pending fields wherever it appears. -/
opaque Config.exitShowsPending : Bool

/-- FREE VALUE (log 44). Whether a READ being clocked out on another port at a device reset goes on sending its copy, as
R184 says, or is ended and sends 0x00, as R194 says. -/
opaque Config.readSurvivesReset : Bool

/-- FREE VALUE (log 46). Whether a frame with these bytes that waits at another port when a device reset is taken stays and
is then answered by the detached port, as R194's last paragraph has it of a command that comes together with the reset, or
is discarded without a reply, as R194 says of a waiting frame. -/
opaque Config.frameOutlivesReset : List (BitVec 8) → Bool

end Sys2Proof
end

