-- ==== Sys2Proof/Machine/State.lean ====
section
/-! DEFINITION. The state of the BKP-3160 as plain data, the ways a step can stop, and the machine after reset.
Each type cites the rule of spec/ that gives it. -/
namespace Sys2Proof

/-- One value for each of Port A, Port B and Port C. -/
structure PerPort (α : Type) where
  a : α
  b : α
  c : α
deriving DecidableEq, Repr

/-- The value of a port. -/
def PerPort.get {α : Type} (x : PerPort α) : Port → α
  | .A => x.a
  | .B => x.b
  | .C => x.c

/-- The value of one port replaced. -/
def PerPort.set {α : Type} (x : PerPort α) (p : Port) (v : α) : PerPort α :=
  match p with
  | .A => { x with a := v }
  | .B => { x with b := v }
  | .C => { x with c := v }

/-- The same value at every port. -/
def PerPort.all {α : Type} (v : α) : PerPort α := ⟨v, v, v⟩

/-- The three ports in the order A, B, C. -/
def ports3 : List Port := [.A, .B, .C]

namespace Machine

/-! ### The encoder and the line position (spec 01) -/

/-- R9. -/
inductive Motion where
  | still | moving
deriving DecidableEq, Repr

/-- The direction of a count, after inversion (R3). -/
inductive Direction where
  | forward | backward
deriving DecidableEq, Repr

/-- R1, R2; the table 'Line configuration' of spec 10. -/
inductive EncoderMode where
  | quad1 | quad2 | quad4 | stepDir | upDown
deriving DecidableEq, Repr

/-- One encoder phase and its filter (R4): the level on the pin, the accepted level, and the filter, idle or
measuring under the setting (1 to 7 steps of 80 ns) in force when it started. -/
structure Phase where
  raw : Bool
  accepted : Bool
  measuring : Option (BitVec 3)
deriving DecidableEq, Repr

/-- The Position Counter (spec 01, table of its state). The standstill timer is stopped, or running with the
standstill time (ms) it was started with (log 4). -/
structure PositionCounter where
  lp : Position
  hwp : Position
  motion : Motion
  standstillTimer : Option Byte
  errorCount : Half
  excursion : Bool
  refA : Bool
  refB : Bool
  phaseA : Phase
  phaseB : Phase
deriving DecidableEq, Repr

/-- The line configuration (spec 10, table 'Line configuration'). -/
structure LineConfig where
  encoderMode : EncoderMode
  invert : Bool
  encoderFilter : BitVec 3
  exitDistance : Offset
  entryBlanking : Offset
  jamLength : Offset
  reverseAllowance : Half
  standstillTime : Byte
  ranks : PerPort Byte
  holdMask : Half
deriving DecidableEq, Repr

/-! ### Detect inputs (spec 02) -/

/-- R20. -/
inductive Role where
  | off | entry | checkpoint | mark
deriving DecidableEq, Repr

/-- R17. -/
inductive ActiveLevel where
  | high | low
deriving DecidableEq, Repr

/-- R131. -/
inductive OnMiss where
  | note | hold | reject | remove
deriving DecidableEq, Repr

/-- A measurement in progress (R18): the captured position, and the filter time its timer was started with. -/
structure Measurement where
  captured : Position
  time : Byte
deriving DecidableEq, Repr

/-- One detect input (spec 02, table of its configuration and running state), with the level on its pin.
`accepted` is `true` for ACTIVE; `pin` is `true` for high. -/
structure Input where
  role : Role
  active : ActiveLevel
  filter : Byte
  nominal : Offset
  window : Half
  onMiss : OnMiss
  accepted : Bool
  measurement : Option Measurement
  suppress : Bool
  pin : Bool
deriving DecidableEq, Repr

/-! ### Recipes (spec 04) -/

/-- R80. -/
inductive Condition where
  | always
  | ifAccept (p : Port)
  | ifReject (p : Port)
  | ifAllAccept
  | ifAnyReject
deriving DecidableEq, Repr

/-- The width of a window: COUNTS 1 to 16,777,215, TIME 1 to 65,535 × 10 µs, LATCH (R58, R78). -/
inductive Width where
  | counts (n : Offset)
  | time (t : Half)
  | latch
deriving DecidableEq, Repr

/-- A template of a recipe (R58). `report` is `none` for the report port NONE. -/
structure Template where
  channel : Fin 16
  fire : Offset
  width : Width
  condition : Condition
  report : Option Port
  tag : Half
deriving DecidableEq, Repr

/-- R42, R58. -/
inductive LengthPolicy where
  | note | reject
deriving DecidableEq, Repr

/-- What a slot closes as without a verdict (R58, R110). -/
inductive VoterDefault where
  | accept | reject | hold
deriving DecidableEq, Repr

/-- The body of a recipe (R58). -/
structure RecipeBody where
  lengthMin : Offset
  lengthMax : Offset
  policy : LengthPolicy
  voter : PerPort Bool
  decision : PerPort Offset
  default_ : PerPort VoterDefault
  templates : List Template
deriving DecidableEq, Repr

/-- The empty body (R58). -/
def RecipeBody.empty : RecipeBody :=
  { lengthMin := 0, lengthMax := 0, policy := .note, voter := .all false, decision := .all 0,
    default_ := .all .accept, templates := [] }

/-- A recipe with its valid flag (R58) and reference count (R60). -/
structure Recipe where
  valid : Bool
  body : RecipeBody
  refCount : Nat
deriving DecidableEq, Repr

/-- R67. -/
inductive Trigger where
  | nextEntry
  | atPosition (p : Position)
deriving DecidableEq, Repr

/-- An entry of the Stage Queue (R67). -/
structure StageEntry where
  recipe : Fin 8
  trigger : Trigger
deriving DecidableEq, Repr

/-- The Recipe Store (spec 04, table of its state). -/
structure RecipeStore where
  store : Vector Recipe 8
  current : Fin 8
  stage : List StageEntry
deriving DecidableEq, Repr

/-! ### Items (spec 03, 06, 07) -/

/-- R105. -/
inductive Verdict where
  | accept | reject
deriving DecidableEq, Repr

/-- The source of a close (R105). -/
inductive CloseSource where
  | byPort | byDefault | forced
deriving DecidableEq, Repr

/-- A verdict slot (R105): NONE, OPEN with an optional pending verdict, CLOSED. -/
inductive Slot where
  | absent
  | opened (pending : Option (Verdict × BitVec 6))
  | closed (v : Verdict) (code : BitVec 6) (source : CloseSource)
deriving DecidableEq, Repr

/-- A checkpoint mark (R122): MATCHED with its slip, or MISSED. -/
inductive MarkResult where
  | matched (slip : Int)
  | missed
deriving DecidableEq, Repr

/-- An entry of an item's mark list (R122). -/
structure CheckpointMark where
  input : Fin 8
  result : MarkResult
deriving DecidableEq, Repr

/-- The flags of an item (spec 03, table of the item record). -/
structure ItemFlags where
  lengthFault : Bool
  jam : Bool
  missed : Bool
  incomplete : Bool
deriving DecidableEq, Repr

/-- R33, R38, R45. -/
inductive ItemState where
  | entering | tracked | leaving
deriving DecidableEq, Repr

/-- An item record (spec 03, table of the item record). -/
structure Item where
  number : Half
  state : ItemState
  entry : Position
  length : Option (BitVec 32)
  correction : Int
  recipe : Fin 8
  slots : PerPort Slot
  marks : List CheckpointMark
  actions : List Handle
  flags : ItemFlags
  missing : Nat
deriving DecidableEq, Repr

/-- What the next ENTRY trailing edge will be applied to (R35). -/
inductive Trailing where
  | nothing
  | item (n : Half)
  | discard
deriving DecidableEq, Repr

/-- The Item Table (spec 03, table of its state): `live` in creation order, the head first (R33). -/
structure ItemTable where
  live : List Item
  nextNumber : Half
  trailing : Trailing
  entryLost : Half
  reEntry : Half
deriving DecidableEq, Repr

/-! ### Actions (spec 05) -/

/-- R78. -/
inductive Poster where
  | station (p : Port)
  | auto
deriving DecidableEq, Repr

/-- R80. -/
inductive CondState where
  | unresolved | holds | fails
deriving DecidableEq, Repr

/-- R78: ARMED in sub-state AHEAD or OVERDUE, FIRING in sub-state WAIT_GAP or ON. -/
inductive ActionState where
  | ahead | overdue | waitGap | on
deriving DecidableEq, Repr

/-- An action record (R78). The window timer is stopped, or running with the width (10 µs) it was started with
(log 4). `order` is the model's own: the place of the binding in 'the order in which the Action Store took them'
(R79, log 16). -/
structure Action where
  handle : Handle
  item : Half
  channel : Fin 16
  poster : Poster
  report : Option Port
  fire : Offset
  width : Width
  condition : Condition
  condState : CondState
  tag : Half
  state : ActionState
  start : Option Position
  handOver : Option Position
  timer : Option Half
  late : Bool
  delayed : Bool
  order : Nat
deriving DecidableEq, Repr

/-- A pool entry (R76): its generation, and the action bound in it, if any. -/
structure PoolEntry where
  generation : Byte
  action : Option Action
deriving DecidableEq, Repr

/-- The Action Store (spec 05, table of its state). `bindCount` is the model's own (log 16). -/
structure ActionStore where
  pool : Vector PoolEntry 256
  freeList : List (Fin 256)
  schedules : Vector (List Handle) 16
  bindCount : Nat
deriving DecidableEq, Repr

/-- The six outcomes of an action (R93). -/
inductive ActionOutcome where
  | done | skipped | cancelled | displaced | lost | aborted
deriving DecidableEq, Repr

/-! ### Output channels (spec 08) -/

/-- R136. -/
inductive Polarity where
  | activeHigh | activeLow
deriving DecidableEq, Repr

/-- R85, R86. -/
inductive Policy where
  | refuse | merge | priority
deriving DecidableEq, Repr

/-- R137. -/
inductive OutState where
  | off | on | gap
deriving DecidableEq, Repr

/-- An output channel (spec 08, table of its state). The gap timer is stopped, or running with the minimum gap
(10 µs) it was started with (log 4). `gapFresh` is the model's own: the gap was started by the count being taken
(R138, R141, log 15); it is false between steps. -/
structure Channel where
  polarity : Polarity
  minGap : Half
  policy : Policy
  span : Half
  out : OutState
  onSet : List Handle
  waitSet : List Handle
  gapTimer : Option Half
  fireCount : BitVec 32
  gapFresh : Bool
deriving DecidableEq, Repr

/-! ### Leases (spec 10) -/

/-- R166. -/
inductive LeaseKind where
  | exclusive | shared
deriving DecidableEq, Repr

/-- An entry of the Lease Table (R166): the holder set, and the wait list in arrival order. -/
structure LeaseEntry where
  holders : List (Port × LeaseKind)
  waiters : List (Port × LeaseKind)
deriving DecidableEq, Repr

/-! ### Notices (spec 11, 12) -/

/-- The notice classes to which a port subscribes (R186). -/
structure ClassMask where
  item : Bool
  input : Bool
  line : Bool
deriving DecidableEq, Repr

/-- The reason of an ITEM_EXIT (R46). -/
inductive ExitReason where
  | exit | removed | purged | missed
deriving DecidableEq, Repr

/-- The limit broken in a LENGTH_FAULT (R42). -/
inductive LengthLimit where
  | minimum | maximum | reversed
deriving DecidableEq, Repr

/-- The origin of a change of the hold cause set (R154). -/
inductive HoldOrigin where
  | raised | set | released | sessionEnd
deriving DecidableEq, Repr

/-- The kind of a notice with the fields its own rule gives it (R199). -/
inductive NoticeBody where
  | itemEnter (recipe : Fin 8) (voters : PerPort Bool) (created missing : Nat)
  | itemDecided (slots : PerPort Slot) (anyReject holdDefault : Bool) (source : CloseSource)
  | itemExit (reason : ExitReason) (flags : ItemFlags) (slots : PerPort Slot)
  | entryLost (count : Half)
  | reEntryIgnored (count : Half)
  | lengthFault (length : BitVec 32) (limit : LengthLimit) (policy : LengthPolicy)
  | jam (jamLength : Offset)
  | checkpointMatch (input : Fin 8) (marks : Nat) (slip correction : Int)
  | checkpointMiss (input : Fin 8) (onMiss : OnMiss) (marks : Nat) (correction : Int)
  | mark (input : Fin 8) (lp : Position)
  | phantom (input : Fin 8) (lp : Position)
  | lineStill
  | lineMoving (direction : Direction)
  | encoderError (count : Half)
  | reverseFault (hwp : Position) (allowance : Half)
  | holdChanged (after before : Half) (origin : HoldOrigin) (port : Option Port)
  | recipeSwitched (new previous : Fin 8) (trigger : Trigger) (left : Nat)
  | actionEnd (handle tag : Half) (outcome : ActionOutcome) (late delayed wasFiring started : Bool) (run : Offset)
  | leaseGranted (resource : Fin 33) (kind : LeaseKind) (holders waiters : Nat)
  | overflow (lost : Half)
deriving DecidableEq, Repr

/-- A notice record (R185): the serial, the item number, the position, and the kind with its data. -/
structure Notice where
  serial : Byte
  item : Half
  position : Position
  body : NoticeBody
deriving DecidableEq, Repr

/-! ### Replies, frames and ports (spec 10, 11) -/

/-- The result codes (spec 12, 'Codes'). -/
inductive Result where
  | ok | waiting | replaced | none
  | frameError | unknownCommand | badParameter | notAttached | alreadyAttached | already | notLeased
  | leasedElsewhere | held | notOwner | noItem | noAction | past | order | overlap | noSpace | itemLimit | late
  | notVoter | inUse | notEmpty | notStill | stageFull | notStaged | invalidRecipe | entryTaken | badSerial | busy
deriving DecidableEq, Repr

/-- A reply frame as it stands in a reply slot (R183), with its read flag and its overrun flag. `copied` is the
model's own: the READ in progress on the port has copied this very reply (R184, log 35). -/
structure Reply where
  status : Byte
  code : Byte
  seq : Byte
  result : Result
  payload : List Byte
  read : Bool
  overrun : Bool
  copied : Bool
deriving DecidableEq, Repr

/-- A frame whose CSN has risen (R180, R181): its whole bytes, and whether it ended inside a further byte. -/
structure Frame where
  bytes : List Byte
  partialByte : Bool
deriving DecidableEq, Repr

/-- The transaction of a port (R178, R184): idle; receiving, with the status byte taken at the CSN fall; or a READ
being clocked out, with that status byte and the copy of the slot in frame order. A transaction that the port
ignores (R194, R195) is idle with CSN low. -/
inductive Transaction where
  | idle
  | receiving (status : Byte)
  | reading (status : Byte) (copy : List Byte)
deriving DecidableEq, Repr

/-- R161. -/
inductive EndReason where
  | none | detach | expired | portReset | deviceReset
deriving DecidableEq, Repr

/-- R102. -/
inductive OrphanPolicy where
  | keep | cancel
deriving DecidableEq, Repr

/-- The session record of a port (spec 10, table of the session record). The keepalive timer is stopped, or running
with the keepalive (10 ms) it was started with (log 4). -/
structure Session where
  attached : Bool
  keepalive : Half
  orphan : OrphanPolicy
  classes : ClassMask
  attention : Bool
  timer : Option Half
  lastEnd : EndReason
deriving DecidableEq, Repr

/-- A detached session with a given last end reason (R159). -/
def Session.detached (r : EndReason) : Session :=
  { attached := false, keepalive := 0, orphan := .keep, classes := ⟨false, false, false⟩, attention := false,
    timer := none, lastEnd := r }

/-- A host port (spec 11, table of its state; R181 for the waiting frames, oldest first), with the level of its CSN
pin. -/
structure PortState where
  session : Session
  csnLow : Bool
  transaction : Transaction
  waiting : List Frame
  slot : Option Reply
  queue : List Notice
  nextSerial : Byte
  lost : Half
deriving DecidableEq, Repr

/-! ### The whole state -/

/-- The state of the part. `free` is the model's own: how many open choices have been taken (log 5). `pending` is
the queue of the commands and events waiting to be taken, first in first out (log 1). -/
structure State where
  rstn : Bool
  pos : PositionCounter
  line : LineConfig
  inputs : Vector Input 8
  items : ItemTable
  recipes : RecipeStore
  actions : ActionStore
  channels : Vector Channel 16
  hold : Half
  leases : Vector LeaseEntry 33
  ports : PerPort PortState
  free : Nat
  pending : List Instr
deriving DecidableEq, Repr

/-- Why the machine stops with a fault: it never does. Every refusal of a command is a result code in a reply frame
(spec 12, 'Codes'), which is a next state, so this type has no constructor (safe). -/
inductive Fault where
deriving DecidableEq, Repr

/-- Why a step is refused. -/
inductive Refusal where
  /-- Raised by `exec` for a row that has no meaning yet (safe). No arm of this model raises it. -/
  | notModelled (mnemonic : String)
deriving DecidableEq, Repr

/-! ### Reset (R15, R30, R56, R74, R104, R147, R158, R176, R195) -/

/-- An encoder phase at reset: idle, its accepted level the level on the pin (R15). -/
def Phase.reset (pin : Bool) : Phase := { raw := pin, accepted := pin, measuring := none }

/-- The Position Counter at power-on reset (R15), with the levels on A and B. -/
def PositionCounter.reset (a b : Bool) : PositionCounter :=
  { lp := 0, hwp := 0, motion := .still, standstillTimer := none, errorCount := 0, excursion := false,
    refA := a, refB := b, phaseA := .reset a, phaseB := .reset b }

/-- The line configuration after power-on (spec 10, table 'Line configuration'; R158 for the hold mask). -/
def LineConfig.reset : LineConfig :=
  { encoderMode := .quad4, invert := false, encoderFilter := 0, exitDistance := 10000, entryBlanking := 100,
    jamLength := 5000, reverseAllowance := 200, standstillTime := 50, ranks := ⟨1, 2, 3⟩, holdMask := 0x0FF0 }

/-- A detect input after power-on (R30), with the level on its pin. -/
def Input.reset (pin : Bool) : Input :=
  { role := .off, active := .high, filter := 0, nominal := 0, window := 0, onMiss := .note, accepted := false,
    measurement := none, suppress := false, pin := pin }

/-- The Item Table after either reset (R56, R57). -/
def ItemTable.reset : ItemTable :=
  { live := [], nextNumber := 1, trailing := .nothing, entryLost := 0, reEntry := 0 }

/-- The Recipe Store after power-on (R74). -/
def RecipeStore.reset : RecipeStore :=
  { store := (Vector.replicate 8 ⟨false, .empty, 0⟩).set 0 ⟨true, .empty, 0⟩, current := 0, stage := [] }

/-- The Action Store after either reset (R104). -/
def ActionStore.reset : ActionStore :=
  { pool := Vector.replicate 256 ⟨1, none⟩, freeList := List.finRange 256, schedules := Vector.replicate 16 [],
    bindCount := 0 }

/-- An output channel after power-on (R147). -/
def Channel.reset : Channel :=
  { polarity := .activeHigh, minGap := 0, policy := .refuse, span := 1, out := .off, onSet := [], waitSet := [],
    gapTimer := none, fireCount := 0, gapFresh := false }

/-- A port after power-on (R176, R195), with the level of its CSN pin. -/
def PortState.reset (csnLow : Bool) : PortState :=
  { session := .detached .none, csnLow := csnLow, transaction := .idle, waiting := [], slot := none, queue := [],
    nextSerial := 0, lost := 0 }

/-- The machine right after power-on reset: RSTN has risen, the encoder and detect pins are low and CSN is high at
every port (the pins' levels are log 9's choice; every other value is the spec's). -/
def State.reset : State :=
  { rstn := true
    pos := .reset false false
    line := .reset
    inputs := Vector.replicate 8 (.reset false)
    items := .reset
    recipes := .reset
    actions := .reset
    channels := Vector.replicate 16 .reset
    hold := 0x0001
    leases := Vector.replicate 33 ⟨[], []⟩
    ports := .all (.reset false)
    free := 0
    pending := [] }

end Machine
end Sys2Proof
end

