-- ==== Sys2Proof/Machine/Formats.lean ====
section
/-! DEFINITION. How values are laid out in bytes: byte order, codes, the CRC-8, verdict slots, marks and notice records
(spec 12, R179, R196, R198, R199). -/
namespace Sys2Proof.Machine

/-! ### Byte order (R196: every multi-byte field is big-endian) -/

/-- A 16-bit field. -/
def be16 (x : Half) : List Byte := [x.extractLsb' 8 8, x.extractLsb' 0 8]

/-- A 24-bit field. -/
def be24 (x : Offset) : List Byte := [x.extractLsb' 16 8, x.extractLsb' 8 8, x.extractLsb' 0 8]

/-- A 32-bit field. -/
def be32 (x : BitVec 32) : List Byte :=
  [x.extractLsb' 24 8, x.extractLsb' 16 8, x.extractLsb' 8 8, x.extractLsb' 0 8]

/-- A signed 3-byte field, two's complement at its own width, low-order bytes (R196, R199). -/
def int24 (i : Int) : List Byte := be24 (BitVec.ofInt 24 i)

/-- A signed 4-byte field (R196). -/
def int32 (i : Int) : List Byte := be32 (BitVec.ofInt 32 i)

/-- A small count in one byte (R196). -/
def natByte (n : Nat) : Byte := BitVec.ofNat 8 n

/-- A count in two bytes (R196). -/
def natHalf (n : Nat) : List Byte := be16 (BitVec.ofNat 16 n)

/-- A field that says whether something holds: 1 when it holds and 0 when it does not (R196). -/
def flagByte (b : Bool) : Byte := if b then 1 else 0

/-- Two bytes read as a big-endian field (R196). -/
def read16 (b1 b0 : Byte) : Half := b1 ++ b0

/-- Three bytes read as a big-endian field (R196). -/
def read24 (b2 b1 b0 : Byte) : Offset := b2 ++ (b1 ++ b0)

/-- Four bytes read as a big-endian field (R196). -/
def read32 (b3 b2 b1 b0 : Byte) : BitVec 32 := b3 ++ (b2 ++ (b1 ++ b0))

/-! ### CRC-8 (R179: x^8 + x^2 + x + 1, initial value 0, most significant bit first) -/

/-- One shift of the CRC register. -/
def crcShift (c : Byte) : Byte := if c.msb then (c <<< 1) ^^^ 0x07 else c <<< 1

/-- The CRC register after one more byte. -/
def crcByte (c b : Byte) : Byte :=
  crcShift (crcShift (crcShift (crcShift (crcShift (crcShift (crcShift (crcShift (c ^^^ b))))))))

/-- The CRC-8 of a run of bytes. -/
def crc8 (bytes : List Byte) : Byte := bytes.foldl crcByte 0

/-! ### Codes (spec 12, 'Codes') -/

/-- Port names: 0 A, 1 B, 2 C. -/
def portCode : Port → Byte
  | .A => 0
  | .B => 1
  | .C => 2

/-- Report port and HOLD_CHANGED port: 3 for NONE. -/
def portOrNoneCode : Option Port → Byte
  | some p => portCode p
  | none => 3

/-- Poster: 3 for AUTO. -/
def posterCode : Poster → Byte
  | .station p => portCode p
  | .auto => 3

/-- Voter set: bit 0 A, bit 1 B, bit 2 C. -/
def voterSetByte (v : PerPort Bool) : Byte :=
  natByte ((if v.a then 1 else 0) + (if v.b then 2 else 0) + (if v.c then 4 else 0))

/-- The result codes. -/
def resultCode : Result → Byte
  | .ok => 0x00
  | .waiting => 0x01
  | .replaced => 0x02
  | .none => 0x03
  | .frameError => 0x10
  | .unknownCommand => 0x11
  | .badParameter => 0x12
  | .notAttached => 0x13
  | .alreadyAttached => 0x14
  | .already => 0x15
  | .notLeased => 0x16
  | .leasedElsewhere => 0x17
  | .held => 0x18
  | .notOwner => 0x19
  | .noItem => 0x1A
  | .noAction => 0x1B
  | .past => 0x1C
  | .order => 0x1D
  | .overlap => 0x1E
  | .noSpace => 0x1F
  | .itemLimit => 0x20
  | .late => 0x21
  | .notVoter => 0x22
  | .inUse => 0x23
  | .notEmpty => 0x24
  | .notStill => 0x25
  | .stageFull => 0x26
  | .notStaged => 0x27
  | .invalidRecipe => 0x28
  | .entryTaken => 0x29
  | .badSerial => 0x2A
  | .busy => 0x2B

def widthKindCode : Width → Byte
  | .counts _ => 0
  | .time _ => 1
  | .latch => 2

/-- The width value as carried: 0 for LATCH (R58, R81). -/
def widthValue : Width → Offset
  | .counts n => n
  | .time t => t.setWidth 24
  | .latch => 0

def conditionKindCode : Condition → Byte
  | .always => 0
  | .ifAccept _ => 1
  | .ifReject _ => 2
  | .ifAllAccept => 3
  | .ifAnyReject => 4

/-- The port that a condition names, if its kind names one. -/
def conditionPort : Condition → Option Port
  | .ifAccept p => some p
  | .ifReject p => some p
  | _ => none

def verdictCode : Verdict → Byte
  | .accept => 0
  | .reject => 1

def voterDefaultCode : VoterDefault → Byte
  | .accept => 0
  | .reject => 1
  | .hold => 2

def onMissCode : OnMiss → Byte
  | .note => 0
  | .hold => 1
  | .reject => 2
  | .remove => 3

def encoderModeCode : EncoderMode → Byte
  | .quad1 => 0
  | .quad2 => 1
  | .quad4 => 2
  | .stepDir => 3
  | .upDown => 4

def policyCode : Policy → Byte
  | .refuse => 0
  | .merge => 1
  | .priority => 2

def lengthPolicyCode : LengthPolicy → Byte
  | .note => 0
  | .reject => 1

def leaseKindCode : LeaseKind → Byte
  | .exclusive => 0
  | .shared => 1

def triggerCode : Trigger → Byte
  | .nextEntry => 0
  | .atPosition _ => 1

/-- The point of a trigger as carried: 0 for NEXT_ENTRY (R71, R192). -/
def triggerPoint : Trigger → Position
  | .nextEntry => 0
  | .atPosition p => p

def endReasonCode : EndReason → Byte
  | .none => 0
  | .detach => 1
  | .expired => 2
  | .portReset => 3
  | .deviceReset => 4

def motionCode : Motion → Byte
  | .still => 0
  | .moving => 1

def outStateCode : OutState → Byte
  | .off => 0
  | .on => 1
  | .gap => 2

def itemStateCode : ItemState → Byte
  | .entering => 0
  | .tracked => 1
  | .leaving => 2

/-- READ_CHANNEL entry state (R198). -/
def actionStateCode : ActionState → Byte
  | .ahead => 0
  | .overdue => 1
  | .waitGap => 2
  | .on => 3

/-- READ_CHANNEL condition state (R198). -/
def condStateCode : CondState → Byte
  | .unresolved => 0
  | .holds => 1
  | .fails => 2

def closeSourceCode : CloseSource → Nat
  | .byPort => 1
  | .byDefault => 2
  | .forced => 3

def outcomeCode : ActionOutcome → Nat
  | .done => 0
  | .skipped => 1
  | .cancelled => 2
  | .displaced => 3
  | .lost => 4
  | .aborted => 5

def exitReasonCode : ExitReason → Byte
  | .exit => 0
  | .removed => 1
  | .purged => 2
  | .missed => 3

def lengthLimitCode : LengthLimit → Byte
  | .minimum => 1
  | .maximum => 2
  | .reversed => 3

def directionCode : Direction → Byte
  | .forward => 0
  | .backward => 1

def holdOriginCode : HoldOrigin → Byte
  | .raised => 0
  | .set => 1
  | .released => 2
  | .sessionEnd => 3

/-! ### Slots, marks and flags (R198) -/

/-- A verdict slot in 2 bytes (R198). -/
def slotBytes : Slot → List Byte
  | .absent => [0, 0]
  | .opened none => [1, 0]
  | .opened (some (v, code)) => [natByte (1 + 4 * (verdictCode v).toNat + 8), code.setWidth 8]
  | .closed v code src => [natByte (2 + 4 * (verdictCode v).toNat + 16 * closeSourceCode src), code.setWidth 8]

/-- The three slots, always in the order A, B, C (R198). -/
def slotsBytes (x : PerPort Slot) : List Byte := slotBytes x.a ++ slotBytes x.b ++ slotBytes x.c

/-- A slot in the summary of ITEM_EXIT (R46, R108, R198): whether it shows a pending verdict is a free value (log 40). -/
def exitSlot : Slot → Slot
  | .opened pending => .opened (if Config.exitShowsPending then pending else none)
  | x => x

/-- The three slots of the summary of ITEM_EXIT (R46). -/
def exitSlotsBytes (x : PerPort Slot) : List Byte := slotsBytes ⟨exitSlot x.a, exitSlot x.b, exitSlot x.c⟩

/-- A checkpoint mark in 4 bytes (R198). -/
def markBytes (m : CheckpointMark) : List Byte :=
  match m.result with
  | .matched slip => natByte m.input.val :: int24 slip
  | .missed => natByte (m.input.val + 128) :: int24 0

/-- The item flags: bit 0 LENGTH_FAULT, bit 1 JAM, bit 2 MISSED, bit 3 INCOMPLETE (R198). -/
def itemFlagsByte (f : ItemFlags) : Byte :=
  natByte ((if f.lengthFault then 1 else 0) + (if f.jam then 2 else 0) + (if f.missed then 4 else 0) +
    (if f.incomplete then 8 else 0))

/-! ### Notice records (R185, R199) -/

/-- The code of a notice kind (R199). -/
def noticeCode : NoticeBody → Byte
  | .itemEnter .. => 0x10
  | .itemDecided .. => 0x11
  | .itemExit .. => 0x12
  | .entryLost _ => 0x13
  | .reEntryIgnored _ => 0x14
  | .lengthFault .. => 0x15
  | .jam _ => 0x16
  | .checkpointMatch .. => 0x17
  | .checkpointMiss .. => 0x18
  | .mark .. => 0x20
  | .phantom .. => 0x21
  | .lineStill => 0x30
  | .lineMoving _ => 0x31
  | .encoderError _ => 0x32
  | .reverseFault .. => 0x33
  | .holdChanged .. => 0x34
  | .recipeSwitched .. => 0x35
  | .actionEnd .. => 0x40
  | .leaseGranted .. => 0x41
  | .overflow _ => 0x42

/-- The data bytes that R199 names for a kind. ITEM_EXIT carries the flags and slots of R46, R55 and R199 and neither the
missing count nor the length, which R39 and R41 have seen in it (log 47). -/
def noticeFields : NoticeBody → List Byte
  | .itemEnter recipe voters created missing =>
    [natByte recipe.val, voterSetByte voters, natByte created, natByte missing]
  | .itemDecided slots anyReject holdDefault source =>
    slotsBytes slots ++ [natByte ((if anyReject then 1 else 0) + (if holdDefault then 2 else 0) +
      16 * closeSourceCode source)]
  | .itemExit reason flags slots => exitReasonCode reason :: itemFlagsByte flags :: exitSlotsBytes slots
  | .entryLost count => be16 count
  | .reEntryIgnored count => be16 count
  | .lengthFault length limit policy => be32 length ++ [lengthLimitCode limit, lengthPolicyCode policy]
  | .jam jamLength => be32 (jamLength.setWidth 32)
  | .checkpointMatch input marks slip correction =>
    natByte input.val :: natByte marks :: (int24 slip ++ int24 correction)
  | .checkpointMiss input onMiss marks correction =>
    natByte input.val :: onMissCode onMiss :: natByte marks :: int24 correction
  | .mark input lp => natByte input.val :: be32 lp
  | .phantom input lp => natByte input.val :: be32 lp
  | .lineStill => []
  | .lineMoving direction => [directionCode direction]
  | .encoderError count => be16 count
  | .reverseFault hwp allowance => be32 hwp ++ be16 allowance
  | .holdChanged after before origin port =>
    be16 after ++ be16 before ++ [holdOriginCode origin, portOrNoneCode port]
  | .recipeSwitched new previous trigger left =>
    natByte new.val :: natByte previous.val :: triggerCode trigger :: natByte left :: be32 (triggerPoint trigger)
  | .actionEnd handle tag outcome late delayed wasFiring started run =>
    be16 handle ++ be16 tag ++ natByte (outcomeCode outcome + (if late then 8 else 0) + (if delayed then 16 else 0) +
      (if wasFiring then 32 else 0) + (if started then 64 else 0)) :: be24 run
  | .leaseGranted resource kind holders waiters =>
    [natByte resource.val, leaseKindCode kind, natByte holders, natByte waiters]
  | .overflow lost => be16 lost

/-- The 8 data bytes: 0 in every byte the kind does not name (R199). -/
def noticeData (b : NoticeBody) : List Byte :=
  noticeFields b ++ List.replicate (8 - (noticeFields b).length) 0

/-- The 16 bytes of a notice record (R185). -/
def noticeBytes (n : Notice) : List Byte :=
  n.serial :: noticeCode n.body :: (be16 n.item ++ be32 n.position ++ noticeData n.body)

/-! ### Reply frames (R183) -/

/-- The bytes of a reply frame, in frame order, with its CRC. -/
def replyBytes (status code seq result : Byte) (payload : List Byte) : List Byte :=
  let body := status :: code :: seq :: result :: natByte payload.length :: payload
  body ++ [crc8 body]

/-- A reply of a slot as the bytes a READ clocks out (R183, R184). -/
def Reply.bytes (r : Reply) : List Byte := replyBytes r.status r.code r.seq (resultCode r.result) r.payload

/-! ### The hold causes (R149, R196) -/

/-- RESET, bit 0. -/
def causeReset : Half := 0x0001

/-- PORT_A, PORT_B, PORT_C, bits 1 to 3. -/
def causePort : Port → Half
  | .A => 0x0002
  | .B => 0x0004
  | .C => 0x0008

def causeItemFull : Half := 0x0010
def causeActionFull : Half := 0x0020
def causeJam : Half := 0x0040
def causeLateVerdict : Half := 0x0080
def causeReverse : Half := 0x0100
def causeEncoder : Half := 0x0200
def causeCheckpointMiss : Half := 0x0400
def causeSessionLost : Half := 0x0800

/-- The twelve assigned bits (R153). -/
def allCauses : Half := 0x0FFF

/-- The eight condition causes, bits 4 to 11 (R196). -/
def conditionCauses : Half := 0x0FF0

end Sys2Proof.Machine
end

