-- ==== Sys2Proof/Machine/Flags.lean ====
section
/-! DEFINITION. The flags and levels that the rules compute from the state: the port status byte (R182, R197), ATN
(R191), HOLDN (R149), the level of each Q pin (R136), and the bytes a port sends on MISO (R178, R184, R194). -/
namespace Sys2Proof.Machine

/-- HOLDN is asserted exactly when the hold cause set is non-empty (R149); while RSTN is low it is held asserted. -/
def State.holdnAsserted (s : State) : Bool := !s.rstn || s.hold != 0

/-- The port status byte (R182; bit positions of R197), of a port record and whether the hold cause set is non-empty. -/
def statusByte (ps : PortState) (holdSet : Bool) : Byte :=
  natByte ((if ps.session.attached then 1 else 0) +
    (if ps.queue.isEmpty then 0 else 2) +
    (match ps.slot with
     | some r => (if r.read then 0 else 4) + (if r.overrun then 8 else 0)
     | none => 0) +
    (if ps.lost = 0 then 0 else 16) +
    (if holdSet then 32 else 0))

/-- ATN is asserted while the queue holds a notice, or the port is ATTACHED with reply attention on and an unread
reply stands in the slot (R191); it is released while RSTN is low. -/
def State.atnAsserted (s : State) (p : Port) : Bool :=
  let ps := s.ports.get p
  s.rstn && (!ps.queue.isEmpty ||
    (ps.session.attached && ps.session.attention &&
      match ps.slot with
      | some r => !r.read
      | none => false))

/-- The level of a Q pin, `true` for high: its active level exactly when the ON set is not empty (R136). -/
def State.qLevel (s : State) (c : Fin 16) : Bool :=
  let ch := s.channels.get c
  match ch.polarity with
  | .activeHigh => !ch.onSet.isEmpty
  | .activeLow => ch.onSet.isEmpty

/-- The byte a port sends in byte time `k` of its transaction, 0 the first: the status byte taken at the CSN fall,
then the copy of the slot in a READ, then 0x00 (R178, R184); 0x00 throughout in a transaction that is ignored. -/
def State.misoByte (s : State) (p : Port) (k : Nat) : Byte :=
  match (s.ports.get p).transaction with
  | .idle => 0
  | .receiving status => if k = 0 then status else 0
  | .reading status copy => if k = 0 then status else copy.getD (k - 1) 0

end Sys2Proof.Machine
end

