-- ==== Sys2Proof/Machine/Frames.lean ====
section
/-! DEFINITION. Command frames: their layout, what makes one malformed, and the codes that name a command
(R178 to R180, spec 12 'Frames' and 'Codes'). -/
namespace Sys2Proof.Machine

/-- The commands that a frame can carry (spec 12, table of command codes). -/
inductive CommandName where
  | attach | detach | portReset | status | fetch | ack | lease | release | configLine | configInput | configChannel
  | writeRecipe | eraseRecipe | readRecipe | stageRecipe | cancelStage | postAction | cancelAction | clearChannel
  | readChannel | verdict | readItem | listItems | removeItem | purgeLine | setHold | releaseHold | readPosition
  | setPosition | resetDevice
deriving DecidableEq, Repr

/-- The code of a command (spec 12, 'Codes'). -/
def commandCode : CommandName → Byte
  | .attach => 0x01
  | .detach => 0x02
  | .portReset => 0x03
  | .status => 0x04
  | .fetch => 0x05
  | .ack => 0x06
  | .lease => 0x10
  | .release => 0x11
  | .configLine => 0x20
  | .configInput => 0x21
  | .configChannel => 0x22
  | .writeRecipe => 0x30
  | .eraseRecipe => 0x31
  | .readRecipe => 0x32
  | .stageRecipe => 0x33
  | .cancelStage => 0x34
  | .postAction => 0x40
  | .cancelAction => 0x41
  | .clearChannel => 0x42
  | .readChannel => 0x43
  | .verdict => 0x50
  | .readItem => 0x60
  | .listItems => 0x61
  | .removeItem => 0x62
  | .purgeLine => 0x63
  | .setHold => 0x70
  | .releaseHold => 0x71
  | .readPosition => 0x78
  | .setPosition => 0x79
  | .resetDevice => 0x7F

/-- The codes that name a command (spec 12: every other non-zero code is answered UNKNOWN_COMMAND). -/
def knownCodes : List Byte :=
  [0x01, 0x02, 0x03, 0x04, 0x05, 0x06, 0x10, 0x11, 0x20, 0x21, 0x22, 0x30, 0x31, 0x32, 0x33, 0x34, 0x40, 0x41, 0x42,
   0x43, 0x50, 0x60, 0x61, 0x62, 0x63, 0x70, 0x71, 0x78, 0x79, 0x7F]

/-- The reasons of a FRAME_ERROR (R180; codes of spec 12). -/
inductive FrameFault where
  | partialByte | length | crc
deriving DecidableEq, Repr

def frameFaultCode : FrameFault → Byte
  | .partialByte => 0
  | .length => 1
  | .crc => 2

/-- The bytes of a well-formed command frame (R178). -/
def commandFrame (code seq : Byte) (params : List Byte) : List Byte :=
  let body := code :: seq :: natByte params.length :: params
  body ++ [crc8 body]

/-- How a frame is judged when it is taken (R180). -/
inductive Judged where
  | malformed (reason : FrameFault)
  | command (code seq : Byte) (params : List Byte)
deriving DecidableEq, Repr

/-- R180: the first of PARTIAL_BYTE, LENGTH and CRC that applies, or the well-formed frame. -/
def judgeFrame (f : Frame) : Judged :=
  if f.partialByte then .malformed .partialByte
  else
    match f.bytes with
    | code :: seq :: n :: rest =>
      if 128 < n.toNat ∨ rest.length ≠ n.toNat + 1 then .malformed .length
      else if crc8 (f.bytes.dropLast) ≠ f.bytes.getLastD 0 then .malformed .crc
      else .command code seq rest.dropLast
    | _ => .malformed .length

/-- R178: a transaction is a command transaction when at least one whole byte arrived and its first byte is not the
0x00 of a READ. -/
def commandTransaction (bytes : List Byte) : Bool :=
  match bytes with
  | [] => false
  | b :: _ => b != 0

/-- R180: the whole bytes received, a 16-bit count held at 65,535. -/
def receivedCount (f : Frame) : Half := BitVec.ofNat 16 (min f.bytes.length 65535)

end Sys2Proof.Machine
end

