-- ==== Sys2Proof/Machine/Ops.lean ====
section
/-! DEFINITION. The named operations on the state that every family shares: position arithmetic, the reads and
updates of each block's records, open choices, the offering of notices (R185 to R187), the raising of hold causes
(R150) and the placing of replies (R183). -/
namespace Sys2Proof.Machine

/-! ### Positions (spec 00 'Positions and offsets', R7, R32) -/

/-- The forward distance from `a` to `b`. -/
def forwardDistance (a b : Position) : Nat := (b - a).toNat

/-- Position `b` is ahead of position `a`: the forward distance is between 1 and 2^31 − 1 (spec 00, 'Terms'). -/
def isAhead (a b : Position) : Bool := 1 ≤ forwardDistance a b && forwardDistance a b ≤ 2147483647

/-- A position plus an unsigned distance, modulo 2^32. -/
def plusCounts (a : Position) (d : Nat) : Position := a + BitVec.ofNat 32 d

/-- A 16-bit count that stops at 65,535 (spec 00, 'Numbers and counters'). -/
def saturatingSucc (c : Half) : Half := if c = 0xFFFF then c else c + 1

/-! ### Open choices (log 5) -/

/-- Choose one of `n` alternatives. With one alternative nothing is open; otherwise the next free value decides. -/
def State.choose (s : State) (n : Nat) : Nat × State :=
  if n ≤ 1 then (0, s) else (Config.freeChoice s.free % n, { s with free := s.free + 1 })

/-- Choose yes or no. -/
def State.chooseBool (s : State) : Bool × State :=
  let r := s.choose 2
  (r.1 = 0, r.2)

/-! ### Records of the blocks -/

/-- The record of a port. -/
def State.port (s : State) (p : Port) : PortState := s.ports.get p

/-- The record of a port replaced. -/
def State.setPort (s : State) (p : Port) (x : PortState) : State := { s with ports := s.ports.set p x }

/-- The record of a port changed. -/
def State.updPort (s : State) (p : Port) (f : PortState → PortState) : State := s.setPort p (f (s.port p))

/-- The record of a channel. -/
def State.channel (s : State) (c : Fin 16) : Channel := s.channels.get c

/-- The record of a channel changed. -/
def State.updChannel (s : State) (c : Fin 16) (f : Channel → Channel) : State :=
  { s with channels := s.channels.set c.val (f (s.channel c)) c.isLt }

/-- The record of a detect input. -/
def State.input (s : State) (k : Fin 8) : Input := s.inputs.get k

/-- The record of a detect input changed. -/
def State.updInput (s : State) (k : Fin 8) (f : Input → Input) : State :=
  { s with inputs := s.inputs.set k.val (f (s.input k)) k.isLt }

/-- The entry of a leased resource, by its number (spec 12, 'resource'). -/
def State.lease (s : State) (r : Fin 33) : LeaseEntry := s.leases.get r

/-- The entry of a leased resource changed. -/
def State.updLease (s : State) (r : Fin 33) (f : LeaseEntry → LeaseEntry) : State :=
  { s with leases := s.leases.set r.val (f (s.lease r)) r.isLt }

/-- A recipe. -/
def State.recipe (s : State) (i : Fin 8) : Recipe := s.recipes.store.get i

/-- A recipe changed. -/
def State.updRecipe (s : State) (i : Fin 8) (f : Recipe → Recipe) : State :=
  { s with recipes := { s.recipes with store := s.recipes.store.set i.val (f (s.recipe i)) i.isLt } }

/-- The live item with a number (R34: no two live items carry the same number). -/
def State.item? (s : State) (n : Half) : Option Item := s.items.live.find? (fun it => it.number = n)

/-- The list of live items replaced. -/
def State.setLive (s : State) (xs : List Item) : State := { s with items := { s.items with live := xs } }

/-- The record of the live item with a number changed. -/
def State.updItem (s : State) (n : Half) (f : Item → Item) : State :=
  s.setLive (s.items.live.map (fun it => if it.number = n then f it else it))

/-- The pool index of a handle: its low byte (R76). -/
def handleIndex (h : Handle) : Fin 256 := (h.extractLsb' 0 8).toFin

/-- The generation of a handle: its high byte (R76). -/
def handleGeneration (h : Handle) : Byte := h.extractLsb' 8 8

/-- The handle of an entry under a generation (R76). -/
def makeHandle (generation : Byte) (index : Fin 256) : Handle := generation ++ BitVec.ofFin (w := 8) index

/-- A pool entry. -/
def State.entry (s : State) (i : Fin 256) : PoolEntry := s.actions.pool.get i

/-- A pool entry replaced. -/
def State.setEntry (s : State) (i : Fin 256) (e : PoolEntry) : State :=
  { s with actions := { s.actions with pool := s.actions.pool.set i.val e i.isLt } }

/-- The bound action that a handle names (R77): its entry is bound, and the entry's generation is the handle's. -/
def State.action? (s : State) (h : Handle) : Option Action :=
  let e := s.entry (handleIndex h)
  if e.generation = handleGeneration h then e.action else none

/-- The record of the bound action that a handle names changed. -/
def State.updAction (s : State) (h : Handle) (f : Action → Action) : State :=
  let e := s.entry (handleIndex h)
  if e.generation = handleGeneration h then s.setEntry (handleIndex h) { e with action := e.action.map f } else s

/-- A Channel Schedule (R79). -/
def State.schedule (s : State) (c : Fin 16) : List Handle := s.actions.schedules.get c

/-- A Channel Schedule replaced. -/
def State.setSchedule (s : State) (c : Fin 16) (hs : List Handle) : State :=
  { s with actions := { s.actions with schedules := s.actions.schedules.set c.val hs c.isLt } }

/-- The actions that a list of handles names, in its order. -/
def State.actionsOf (s : State) (hs : List Handle) : List Action := hs.filterMap s.action?

/-- An action is FIRING, in ON or in WAIT_GAP (R78). -/
def Action.firing (a : Action) : Bool := a.state = .waitGap || a.state = .on

/-! ### Derived points of an item (R32, R43, R106, R122) -/

/-- R32: the entry position plus the correction, modulo 2^32. -/
def Item.base (it : Item) : Position := it.entry + BitVec.ofInt 32 it.correction

/-- The recipe body of an item, read from the Recipe Store (R59). -/
def State.bodyOf (s : State) (it : Item) : RecipeBody := (s.recipe it.recipe).body

/-- R43: the recipe's maximum length when that is non-zero, and the line's jam length otherwise. -/
def State.jamLengthOf (s : State) (it : Item) : Offset :=
  if (s.bodyOf it).lengthMax = 0 then s.line.jamLength else (s.bodyOf it).lengthMax

/-- R32: the exit point. -/
def State.exitPointOf (s : State) (it : Item) : Position := plusCounts it.base s.line.exitDistance.toNat

/-- R78: the fire point of an action, its item's base plus the fire offset. An action belongs to a live item (R78);
for an item that is not live the base counts as 0 (log 30). -/
def State.firePoint (s : State) (a : Action) : Position :=
  plusCounts ((s.item? a.item).elim 0 Item.base) a.fire.toNat

/-- R122: an input is unmarked for an item while the mark list holds no entry for it. -/
def Item.unmarked (it : Item) (k : Fin 8) : Bool := it.marks.all (fun m => m.input ≠ k)

/-! ### Notices (R185 to R187) -/

/-- The class of a notice kind; `none` for the kinds offered to one port whatever its class mask (R186). -/
inductive NoticeClass where
  | item | input | line
deriving DecidableEq, Repr

/-- The class of a notice kind (R186, R199 and the rule of each kind). -/
def noticeClass : NoticeBody → Option NoticeClass
  | .itemEnter .. | .itemDecided .. | .itemExit .. | .entryLost _ | .reEntryIgnored _ | .lengthFault .. | .jam _
  | .checkpointMatch .. | .checkpointMiss .. => some .item
  | .mark .. | .phantom .. => some .input
  | .lineStill | .lineMoving _ | .encoderError _ | .reverseFault .. | .holdChanged .. | .recipeSwitched .. => some .line
  | .actionEnd .. | .leaseGranted .. | .overflow _ => none

/-- A class mask includes a class. -/
def ClassMask.includes (m : ClassMask) : NoticeClass → Bool
  | .item => m.item
  | .input => m.input
  | .line => m.line

/-- A notice queued on a port: it joins the tail with the next serial, which advances by one (R185). -/
def PortState.enqueue (ps : PortState) (item : Half) (position : Position) (body : NoticeBody) : PortState :=
  { ps with queue := ps.queue ++ [⟨ps.nextSerial, item, position, body⟩], nextSerial := ps.nextSerial + 1 }

/-- A notice offered to a port (R186, R187): discarded without a session, queued while the queue holds fewer than 32
notices, and otherwise dropped and counted as lost. -/
def PortState.offer (ps : PortState) (item : Half) (position : Position) (body : NoticeBody) : PortState :=
  if ps.session.attached then
    if ps.queue.length < 32 then ps.enqueue item position body else { ps with lost := saturatingSucc ps.lost }
  else ps

/-- A notice offered to one port. -/
def State.offerTo (s : State) (p : Port) (item : Half) (position : Position) (body : NoticeBody) : State :=
  s.updPort p (fun ps => ps.offer item position body)

/-- A notice offered to a report port: the offer to NONE is discarded (R186). -/
def State.offerReport (s : State) (p : Option Port) (item : Half) (position : Position) (body : NoticeBody) : State :=
  match p with
  | some p => s.offerTo p item position body
  | none => s

/-- A notice offered to a port whose class mask includes the kind's class (R186). -/
def PortState.offerClass (ps : PortState) (c : NoticeClass) (item : Half) (position : Position) (body : NoticeBody) :
    PortState :=
  if ps.session.classes.includes c then ps.offer item position body else ps

/-- A notice of class ITEM, INPUT or LINE posted: offered to every port whose class mask includes the class (R186). -/
def State.post (s : State) (item : Half) (position : Position) (body : NoticeBody) : State :=
  match noticeClass body with
  | some c =>
    { s with ports :=
      { a := s.ports.a.offerClass c item position body
        b := s.ports.b.offerClass c item position body
        c := s.ports.c.offerClass c item position body } }
  | none => s

/-! ### The hold cause set (R149, R150, R154) -/

/-- The hold cause set replaced, with one HOLD_CHANGED when that changes it (R149, R154). -/
def State.changeHold (s : State) (after : Half) (origin : HoldOrigin) (port : Option Port) : State :=
  if after = s.hold then s
  else { s with hold := after }.post 0 s.pos.lp (.holdChanged after s.hold origin port)

/-- A condition cause raised: it joins the set when it is enabled in the hold mask (R150). -/
def State.raiseHold (s : State) (cause : Half) : State :=
  if s.line.holdMask &&& cause = 0 then s else s.changeHold (s.hold ||| cause) .raised none

/-! ### Leases held (R171) -/

/-- The caller is the resource's exclusive holder. -/
def State.holdsExclusive (s : State) (p : Port) (r : Fin 33) : Bool := (s.lease r).holders.contains (p, .exclusive)

/-- The caller is a holder of the resource, exclusive or shared. -/
def State.holdsAny (s : State) (p : Port) (r : Fin 33) : Bool := (s.lease r).holders.any (fun h => h.1 = p)

/-- Another port holds the resource exclusive. -/
def State.heldExclusiveByOther (s : State) (p : Port) (r : Fin 33) : Bool :=
  (s.lease r).holders.any (fun h => h.1 ≠ p && h.2 = .exclusive)

/-- Resource numbers (spec 12): 0 LINE. -/
def resLine : Fin 33 := 0

/-- 1 to 8 INPUT0 to INPUT7. -/
def resInput (k : Fin 8) : Fin 33 := ⟨k.val + 1, by omega⟩

/-- 9 to 24 CHANNEL0 to CHANNEL15. -/
def resChannel (c : Fin 16) : Fin 33 := ⟨c.val + 9, by omega⟩

/-- 25 to 32 RECIPE0 to RECIPE7. -/
def resRecipe (i : Fin 8) : Fin 33 := ⟨i.val + 25, by omega⟩

/-! ### Replies (R183) -/

/-- The slot holds a reply that has not been read. -/
def PortState.unreadReply (ps : PortState) : Bool :=
  match ps.slot with
  | some r => !r.read
  | none => false

/-- A reply placed in the slot (R183): it replaces what the slot held, is marked REPLY_OVERRUN when that was an
unread reply, and carries the status byte computed with the new reply counted as in the slot. -/
def PortState.placeReply (ps : PortState) (holdSet : Bool) (code seq : Byte) (result : Result)
    (payload : List Byte) : PortState :=
  let r : Reply := { status := 0, code := code, seq := seq, result := result, payload := payload, read := false,
                     overrun := ps.unreadReply, copied := false }
  { ps with slot := some { r with status := statusByte { ps with slot := some r } holdSet } }

/-- A reply placed in the slot of a port. -/
def State.placeReply (s : State) (p : Port) (code seq : Byte) (result : Result) (payload : List Byte) : State :=
  s.updPort p (fun ps => ps.placeReply (s.hold != 0) code seq result payload)

/-! ### Taking a command (R159, R164, R181) -/

/-- What a command's own rule answers: the state after it, the result code, the reply's payload, and the actions that end
SKIPPED once the reply stands in the slot (R83 step 6). -/
structure Answer where
  state : State
  result : Result
  payload : List Byte
  skipped : List Handle

/-- A refused command changes nothing and its reply carries no payload (log 22). -/
def refuse (s : State) (r : Result) : Answer := ⟨s, r, [], []⟩

/-- The keepalive timer restarted by a well-formed frame of an attached port whose code is known (R164). -/
def PortState.restartKeepalive (ps : PortState) : PortState :=
  if ps.session.attached then
    { ps with session := { ps.session with
      timer := if ps.session.keepalive = 0 then none else some ps.session.keepalive } }
  else ps

end Sys2Proof.Machine
end

