-- ==== Sys2Proof/Machine/Operands.lean ====
section
/-! DEFINITION. The operand forms: how each command's parameter block is read, and which blocks are answered
BAD_PARAMETER at check 4 (R181, R196; layouts of spec 12, ranges of each command's rule). Each reader answers `none`
for a block of another length, an enumeration code its table does not list, a flag bit at a position its table does
not assign, or a number outside its range; fields declared ignored are not examined (R196). -/
namespace Sys2Proof.Machine

/-! ### Enumerations and flag bytes -/

/-- An index below `n` carried in one byte. -/
def readIndex (n : Nat) (b : Byte) : Option (Fin n) := if h : b.toNat < n then some ⟨b.toNat, h⟩ else none

/-- 0 A, 1 B, 2 C. -/
def readPort (b : Byte) : Option Port :=
  match b.toNat with
  | 0 => some .A
  | 1 => some .B
  | 2 => some .C
  | _ => none

/-- A report port: 3 is NONE. -/
def readReportPort (b : Byte) : Option (Option Port) :=
  if b.toNat = 3 then some none else (readPort b).map some

/-- A flag of two codes, 0 and 1. -/
def readBool (b : Byte) : Option Bool :=
  match b.toNat with
  | 0 => some false
  | 1 => some true
  | _ => none

/-- A set of three in bits 0 to 2 of a flag byte. -/
def readThreeBits (b : Byte) : Option (Bool × Bool × Bool) :=
  if b.toNat < 8 then some (b.getLsbD 0, b.getLsbD 1, b.getLsbD 2) else none

def readRole (b : Byte) : Option Role :=
  match b.toNat with
  | 0 => some .off
  | 1 => some .entry
  | 2 => some .checkpoint
  | 3 => some .mark
  | _ => none

def readActiveLevel (b : Byte) : Option ActiveLevel :=
  match b.toNat with
  | 0 => some .high
  | 1 => some .low
  | _ => none

def readOnMiss (b : Byte) : Option OnMiss :=
  match b.toNat with
  | 0 => some .note
  | 1 => some .hold
  | 2 => some .reject
  | 3 => some .remove
  | _ => none

def readEncoderMode (b : Byte) : Option EncoderMode :=
  match b.toNat with
  | 0 => some .quad1
  | 1 => some .quad2
  | 2 => some .quad4
  | 3 => some .stepDir
  | 4 => some .upDown
  | _ => none

def readPolarity (b : Byte) : Option Polarity :=
  match b.toNat with
  | 0 => some .activeHigh
  | 1 => some .activeLow
  | _ => none

def readPolicy (b : Byte) : Option Policy :=
  match b.toNat with
  | 0 => some .refuse
  | 1 => some .merge
  | 2 => some .priority
  | _ => none

def readLengthPolicy (b : Byte) : Option LengthPolicy :=
  match b.toNat with
  | 0 => some .note
  | 1 => some .reject
  | _ => none

def readVoterDefault (b : Byte) : Option VoterDefault :=
  match b.toNat with
  | 0 => some .accept
  | 1 => some .reject
  | 2 => some .hold
  | _ => none

def readVerdict (b : Byte) : Option Verdict :=
  match b.toNat with
  | 0 => some .accept
  | 1 => some .reject
  | _ => none

def readOrphan (b : Byte) : Option OrphanPolicy :=
  match b.toNat with
  | 0 => some .keep
  | 1 => some .cancel
  | _ => none

def readLeaseKind (b : Byte) : Option LeaseKind :=
  match b.toNat with
  | 0 => some .exclusive
  | 1 => some .shared
  | _ => none

/-- A window's width: COUNTS 1 to 16,777,215, TIME 1 to 65,535, LATCH with its value ignored (R58, R81). -/
def readWidth (kind v2 v1 v0 : Byte) : Option Width :=
  let v := read24 v2 v1 v0
  match kind.toNat with
  | 0 => if v = 0 then none else some (.counts v)
  | 1 => if v = 0 ∨ 65535 < v.toNat then none else some (.time (v.setWidth 16))
  | 2 => some .latch
  | _ => none

/-- A condition from its kind and port codes; the port of a kind that names none is ignored (R81, R196). -/
def readCondition (kind port : Byte) : Option Condition :=
  match kind.toNat with
  | 0 => some .always
  | 1 => (readPort port).map .ifAccept
  | 2 => (readPort port).map .ifReject
  | 3 => some .ifAllAccept
  | 4 => some .ifAnyReject
  | _ => none

/-- A template's condition byte: kind in bits 2 to 0, port in bits 5 to 4; bits 3, 6 and 7 are not assigned
(spec 12, log 26). -/
def readConditionByte (b : Byte) : Option Condition :=
  if b &&& 0xC8 = 0 then readCondition (b &&& 0x07) ((b &&& 0x30) >>> 4) else none

/-! ### Parameter blocks -/

/-- No parameters. -/
def readNothing (ps : List Byte) : Option Unit := if ps.isEmpty then some () else none

/-- One byte that is an index below `n`. -/
def readOneIndex (n : Nat) : List Byte → Option (Fin n)
  | [b] => readIndex n b
  | _ => none

/-- An item number, 1 to 65,535 (R34). -/
def readItemNumber (b1 b0 : Byte) : Option Half := if read16 b1 b0 = 0 then none else some (read16 b1 b0)

/-- REMOVE_ITEM and READ_ITEM: an item number (R49, R53). -/
def readItemBlock : List Byte → Option Half
  | [b1, b0] => readItemNumber b1 b0
  | _ => none

/-- CANCEL_ACTION: a handle that is not 0 (R77, R98). -/
def readHandleBlock : List Byte → Option Handle
  | [b1, b0] => if read16 b1 b0 = 0 then none else some (read16 b1 b0)
  | _ => none

/-- SET_POSITION: a 32-bit value (R12). -/
def readPositionBlock : List Byte → Option Position
  | [b3, b2, b1, b0] => some (read32 b3 b2 b1 b0)
  | _ => none

/-- ACK: a serial (R189). -/
def readSerialBlock : List Byte → Option Byte
  | [b] => some b
  | _ => none

/-- RELEASE_HOLD: a mask with no bit outside the twelve assigned bits (R153). -/
def readHoldBlock : List Byte → Option Half
  | [b1, b0] => if read16 b1 b0 &&& ~~~allCauses = 0 then some (read16 b1 b0) else none
  | _ => none

/-- CANCEL_STAGE: NEWEST (`false`) or ALL (`true`) (R72). -/
def readScopeBlock : List Byte → Option Bool
  | [b] => readBool b
  | _ => none

/-- The parameters of ATTACH (R160). -/
structure AttachBlock where
  keepalive : Half
  orphan : OrphanPolicy
  classes : ClassMask
  attention : Bool

/-- ATTACH (5 bytes): keepalive 0 to 6,000, orphan policy, class mask, reply attention (R160). -/
def readAttachBlock : List Byte → Option AttachBlock
  | [k1, k0, o, m, r] => do
    let orphan ← readOrphan o
    let (i, n, l) ← readThreeBits m
    let attention ← readBool r
    if (read16 k1 k0).toNat ≤ 6000 then some ⟨read16 k1 k0, orphan, ⟨i, n, l⟩, attention⟩ else none
  | _ => none

/-- The parameters of LEASE (R167). -/
structure LeaseBlock where
  resource : Fin 33
  kind : LeaseKind
  wait : Bool

/-- LEASE (3 bytes): resource 0 to 32, kind, wait mode (R167). -/
def readLeaseBlock : List Byte → Option LeaseBlock
  | [r, k, w] => do
    let resource ← readIndex 33 r
    let kind ← readLeaseKind k
    let wait ← readBool w
    some ⟨resource, kind, wait⟩
  | _ => none

/-- A 4-byte distance, refused above 16,777,215 or below a least value (spec 12, R173). -/
def readDistance (least : Nat) (b3 b2 b1 b0 : Byte) : Option Offset :=
  let v := (read32 b3 b2 b1 b0).toNat
  if least ≤ v ∧ v ≤ 16777215 then some ((read32 b3 b2 b1 b0).setWidth 24) else none

/-- The three ranks: each 1 to 3, all distinct (R173). -/
def readRanks (a b c : Byte) : Option (PerPort Byte) :=
  if [a, b, c].all (fun r => 1 ≤ r.toNat && r.toNat ≤ 3) && a ≠ b && b ≠ c && a ≠ c then some ⟨a, b, c⟩ else none

/-- CONFIG_LINE (23 bytes): the whole line configuration in the ranges of spec 10 (R173). -/
def readLineBlock : List Byte → Option LineConfig
  | [m, i, f, e3, e2, e1, e0, n3, n2, n1, n0, j3, j2, j1, j0, a1, a0, t, ra, rb, rc, h1, h0] => do
    let mode ← readEncoderMode m
    let invert ← readBool i
    let filter ← readIndex 8 f
    let exit ← readDistance 1 e3 e2 e1 e0
    let blanking ← readDistance 0 n3 n2 n1 n0
    let jam ← readDistance 1 j3 j2 j1 j0
    let ranks ← readRanks ra rb rc
    let config : LineConfig :=
      { encoderMode := mode, invert := invert, encoderFilter := BitVec.ofFin filter, exitDistance := exit,
        entryBlanking := blanking, jamLength := jam, reverseAllowance := read16 a1 a0, standstillTime := t,
        ranks := ranks, holdMask := read16 h1 h0 }
    if t = 0 ∨ read16 h1 h0 &&& ~~~conditionCauses ≠ 0 then none else some config
  | _ => none

/-- The parameters of CONFIG_INPUT as stored: N, W and the on-miss action are 0, 0 and NOTE for a role other than
CHECKPOINT (R27). -/
structure InputBlock where
  input : Fin 8
  role : Role
  active : ActiveLevel
  filter : Byte
  nominal : Offset
  window : Half
  onMiss : OnMiss

/-- CONFIG_INPUT (10 bytes): input, role, active level, filter, N, W, on-miss action (R27). -/
def readInputBlock : List Byte → Option InputBlock
  | [k, r, l, f, n2, n1, n0, w1, w0, o] => do
    let input ← readIndex 8 k
    let role ← readRole r
    let active ← readActiveLevel l
    if role = .checkpoint then
      let onMiss ← readOnMiss o
      if read24 n2 n1 n0 = 0 ∨ read16 w1 w0 = 0 then none
      else some ⟨input, role, active, f, read24 n2 n1 n0, read16 w1 w0, onMiss⟩
    else some ⟨input, role, active, f, 0, 0, .note⟩
  | _ => none

/-- The parameters of CONFIG_CHANNEL (R144). -/
structure ChannelBlock where
  channel : Fin 16
  polarity : Polarity
  minGap : Half
  policy : Policy
  span : Half

/-- CONFIG_CHANNEL (7 bytes): channel, polarity, minimum gap, policy, conflict span 1 to 65,535 (R144). -/
def readChannelBlock : List Byte → Option ChannelBlock
  | [c, p, g1, g0, y, s1, s0] => do
    let channel ← readIndex 16 c
    let polarity ← readPolarity p
    let policy ← readPolicy y
    if read16 s1 s0 = 0 then none else some ⟨channel, polarity, read16 g1 g0, policy, read16 s1 s0⟩
  | _ => none

/-- One template (12 bytes): channel, fire offset, width kind and value, condition byte, report port, tag. -/
def readTemplate : List Byte → Option Template
  | [c, f2, f1, f0, k, v2, v1, v0, d, r, t1, t0] => do
    let channel ← readIndex 16 c
    let width ← readWidth k v2 v1 v0
    let condition ← readConditionByte d
    let report ← readReportPort r
    some { channel := channel, fire := read24 f2 f1 f0, width := width, condition := condition, report := report,
           tag := read16 t1 t0 }
  | _ => none

/-- `t` templates of 12 bytes each, and nothing after them. -/
def readTemplates : Nat → List Byte → Option (List Template)
  | 0, ps => if ps.isEmpty then some [] else none
  | t + 1, ps => do
    let x ← readTemplate (ps.take 12)
    let xs ← readTemplates t (ps.drop 12)
    some (x :: xs)

/-- A voter's decision offset and default; those of a port that is not a voter are not examined and stored as 0 and
ACCEPT (R58, R196). -/
def readVoter (voter : Bool) (d2 d1 d0 e : Byte) : Option (Offset × VoterDefault) :=
  if voter then (readVoterDefault e).map (fun x => (read24 d2 d1 d0, x)) else some (0, .accept)

/-- The parameters of WRITE_RECIPE (R61). -/
structure RecipeBlock where
  index : Fin 8
  body : RecipeBody

/-- WRITE_RECIPE (22 bytes, then 12 for each template): check 1 of R61. -/
def readRecipeBlock : List Byte → Option RecipeBlock
  | i :: t :: m2 :: m1 :: m0 :: x2 :: x1 :: x0 :: y :: v :: a2 :: a1 :: a0 :: ad :: b2 :: b1 :: b0 :: bd ::
      c2 :: c1 :: c0 :: cd :: rest => do
    let index ← readIndex 8 i
    let count ← readIndex 9 t
    let policy ← readLengthPolicy y
    let (va, vb, vc) ← readThreeBits v
    let (da, ea) ← readVoter va a2 a1 a0 ad
    let (db, eb) ← readVoter vb b2 b1 b0 bd
    let (dc, ec) ← readVoter vc c2 c1 c0 cd
    let templates ← readTemplates count.val rest
    let lo := read24 m2 m1 m0
    let hi := read24 x2 x1 x0
    let body : RecipeBody :=
      { lengthMin := lo, lengthMax := hi, policy := policy, voter := ⟨va, vb, vc⟩, decision := ⟨da, db, dc⟩,
        default_ := ⟨ea, eb, ec⟩, templates := templates }
    if lo ≠ 0 ∧ hi ≠ 0 ∧ hi.toNat < lo.toNat then none else some ⟨index, body⟩
  | _ => none

/-- The parameters of STAGE_RECIPE (R68). -/
structure StageBlock where
  index : Fin 8
  trigger : Trigger

/-- STAGE_RECIPE (6 bytes): index, trigger, point; the point is ignored for NEXT_ENTRY (R68). -/
def readStageBlock : List Byte → Option StageBlock
  | [i, t, p3, p2, p1, p0] => do
    let index ← readIndex 8 i
    match t.toNat with
    | 0 => some ⟨index, .nextEntry⟩
    | 1 => some ⟨index, .atPosition (read32 p3 p2 p1 p0)⟩
    | _ => none
  | _ => none

/-- The parameters of POST_ACTION (R81). -/
structure PostBlock where
  item : Half
  channel : Fin 16
  fire : Offset
  width : Width
  condition : Condition
  tag : Half

/-- POST_ACTION (14 bytes), R81. -/
def readPostBlock : List Byte → Option PostBlock
  | [i1, i0, c, f2, f1, f0, k, v2, v1, v0, d, p, t1, t0] => do
    let item ← readItemNumber i1 i0
    let channel ← readIndex 16 c
    let width ← readWidth k v2 v1 v0
    let condition ← readCondition d p
    some ⟨item, channel, read24 f2 f1 f0, width, condition, read16 t1 t0⟩
  | _ => none

/-- The parameters of VERDICT (R107). -/
structure VerdictBlock where
  item : Half
  verdict : Verdict
  code : BitVec 6

/-- VERDICT (4 bytes): item number, verdict, code 0 to 63 (R107). -/
def readVerdictBlock : List Byte → Option VerdictBlock
  | [i1, i0, v, c] => do
    let item ← readItemNumber i1 i0
    let verdict ← readVerdict v
    if c.toNat ≤ 63 then some ⟨item, verdict, c.setWidth 6⟩ else none
  | _ => none

end Sys2Proof.Machine
end

