-- ==== Sys2Proof/Machine/Channels.lean ====
section
/-! DEFINITION. The output stage of a channel (spec 08): hand-over (R138, R141, R143), turning ON (R92, R138), leaving
a set (R139), and the gap timer running out (R140). -/
namespace Sys2Proof.Machine

/-- An action turns ON (R92, R138): its handle joins the end of the ON set, its start position becomes LP, a TIME
action's window timer starts, and DELAYED is set when it has waited. -/
def State.turnOn (s : State) (c : Fin 16) (h : Handle) (delayed : Bool) : State :=
  (s.updAction h (fun a =>
    { a with
      state := .on
      start := some s.pos.lp
      timer := match a.width with
        | .time t => some t
        | _ => none
      delayed := a.delayed || delayed })).updChannel c (fun ch => { ch with onSet := ch.onSet ++ [h], out := .on })

/-- A FIRING action handed to its output stage (R138, R143). In GAP it waits, unless the very count that is being taken has
ended the channel's last ON window: then it turns ON at once and the gap timer is stopped (R138, R141, log 15). -/
def State.handOver (s : State) (c : Fin 16) (h : Handle) : State :=
  let s1 := s.updChannel c (fun ch => { ch with fireCount := ch.fireCount + 1 })
  match (s.channel c).out with
  | .off => s1.turnOn c h false
  | .on => s1.turnOn c h false
  | .gap =>
    if (s.channel c).gapFresh then
      (s1.updChannel c (fun ch => { ch with gapTimer := none, gapFresh := false })).turnOn c h false
    else
      (s1.updAction h (fun a => { a with state := .waitGap })).updChannel c
        (fun ch => { ch with waitSet := ch.waitSet ++ [h] })

/-- The channel after an action has left its ON set or wait set (R139). -/
def Channel.leave (ch : Channel) (h : Handle) : Channel :=
  if ch.onSet.contains h then
    let on := ch.onSet.filter (fun x => x ≠ h)
    if on.isEmpty then
      if ch.minGap = 0 then { ch with onSet := [], out := .off }
      else { ch with onSet := [], out := .gap, gapTimer := some ch.minGap }
    else { ch with onSet := on }
  else { ch with waitSet := ch.waitSet.filter (fun x => x ≠ h) }

/-- An ending action leaves its set (R93 step 1, R139). -/
def State.leaveSet (s : State) (c : Fin 16) (h : Handle) : State := s.updChannel c (fun ch => ch.leave h)

/-- The gap timer of a channel runs out (R140): OFF with an empty wait set; otherwise every waiting action turns ON
together, in wait-set order, with DELAYED. -/
def State.gapExpiry (s : State) (c : Fin 16) : State :=
  let ch := s.channel c
  match ch.gapTimer with
  | none => s
  | some _ =>
    let s1 := s.updChannel c (fun ch => { ch with gapTimer := none, waitSet := [], out := .off })
    ch.waitSet.foldl (fun t h => t.turnOn c h true) s1

end Sys2Proof.Machine
end

