-- ==== Sys2Proof/Machine/Actions.lean ====
section
/-! DEFINITION. The Action Store (spec 05): the order of the Channel Schedules (R79), the decision of conditions (R80),
conflict windows and policies (R84 to R86), binding (R76, R83), firing (R89, R90), and the work of an ending (R93
steps 1 to 4, R94). -/
namespace Sys2Proof.Machine

/-! ### Channel Schedules (R79) -/

/-- The handle names a FIRING action. -/
def State.isFiring (s : State) (h : Handle) : Bool := (s.action? h).any Action.firing

/-- The handle names an ARMED AHEAD action. -/
def State.isArmedAhead (s : State) (h : Handle) : Bool := (s.action? h).any (fun a => a.state = .ahead)

/-- What orders part 3: the forward distance from LP to the fire point, then the order of binding (R79). -/
def State.scheduleKey (s : State) (h : Handle) : Nat × Nat :=
  match s.action? h with
  | some a => (forwardDistance s.pos.lp (s.firePoint a), a.order)
  | none => (0, 0)

/-- A key stands before, or level with, another. -/
def keyBefore (x y : Nat × Nat) : Bool := x.1 < y.1 || (x.1 = y.1 && x.2 ≤ y.2)

/-- A handle put into a sorted list at the place its key gives. -/
def insertByKey (key : Handle → Nat × Nat) (h : Handle) : List Handle → List Handle
  | [] => [h]
  | x :: xs => if keyBefore (key h) (key x) then h :: x :: xs else x :: insertByKey key h xs

/-- Handles sorted by their keys. -/
def sortByKey (key : Handle → Nat × Nat) (hs : List Handle) : List Handle := hs.foldr (insertByKey key) []

/-- A handle moved to the end of part 1, the FIRING actions in the order they became FIRING (R79, R89, R90). -/
def State.moveToFiring (s : State) (c : Fin 16) (h : Handle) : State :=
  let rest := (s.schedule c).filter (fun x => x ≠ h)
  s.setSchedule c (rest.filter s.isFiring ++ h :: rest.filter (fun x => !s.isFiring x))

/-- A handle moved to the end of part 2, the OVERDUE actions in the order their fire points were reached (R79, R89). -/
def State.moveToOverdue (s : State) (c : Fin 16) (h : Handle) : State :=
  let rest := (s.schedule c).filter (fun x => x ≠ h)
  s.setSchedule c (rest.filter (fun x => !s.isArmedAhead x) ++ h :: rest.filter s.isArmedAhead)

/-- A handle placed in part 3 by its fire point (R79, R101; log 16). -/
def State.placeAhead (s : State) (c : Fin 16) (h : Handle) : State :=
  let rest := (s.schedule c).filter (fun x => x ≠ h)
  s.setSchedule c (rest.filter (fun x => !s.isArmedAhead x) ++
    sortByKey s.scheduleKey (rest.filter s.isArmedAhead ++ [h]))

/-- Handles of a list in the order in which their actions stand in the schedules, channel after channel: the order in which
one event hands several actions of one channel over (R79, R89, R138; log 38). Actions of different channels touch
different state and need no order (R89). -/
def State.inScheduleOrder (s : State) (hs : List Handle) : List Handle :=
  (List.finRange 16).flatMap (fun c => (s.schedule c).filter (fun h => hs.contains h))

/-! ### Conditions (R80, R114) -/

/-- The slots that are not NONE (R105). -/
def voterSlots (slots : PerPort Slot) : List Slot := [slots.a, slots.b, slots.c].filter (fun x => x ≠ .absent)

/-- A slot is OPEN. -/
def Slot.isOpen : Slot → Bool
  | .opened _ => true
  | _ => false

/-- A slot is CLOSED with a given verdict. -/
def Slot.closedAs (x : Slot) (v : Verdict) : Bool :=
  match x with
  | .closed w _ _ => w = v
  | _ => false

/-- The state of a condition that is TRUE when its port's slot is CLOSED with `v` (R80). -/
def decidePort (x : Slot) (v : Verdict) : CondState :=
  match x with
  | .closed w _ _ => if w = v then .holds else .fails
  | _ => .unresolved

/-- The state of a condition that is `allAccept` when every voter slot is CLOSED with ACCEPT or there is none, and
`anyReject` when every voter slot is CLOSED and one or more is REJECT (R80). -/
def decideAll (slots : PerPort Slot) (allAccept anyReject : CondState) : CondState :=
  let xs := voterSlots slots
  if xs.any Slot.isOpen then .unresolved
  else if xs.all (fun x => x.closedAs .accept) then allAccept else anyReject

/-- R80: the condition state decided from the slots of the action's item. -/
def decideCondition (slots : PerPort Slot) : Condition → CondState
  | .always => .holds
  | .ifAccept p => decidePort (slots.get p) .accept
  | .ifReject p => decidePort (slots.get p) .reject
  | .ifAllAccept => decideAll slots .holds .fails
  | .ifAnyReject => decideAll slots .fails .holds

/-- The voters that a condition depends on, among the voters of a body (R62, R80). -/
def conditionVoters (body : RecipeBody) : Condition → List Port
  | .always => []
  | .ifAccept p => [p]
  | .ifReject p => [p]
  | .ifAllAccept => ports3.filter body.voter.get
  | .ifAnyReject => ports3.filter body.voter.get

/-- R62, R82 check 5: a condition that names a port names a voter of the body. -/
def namesVoter (body : RecipeBody) (c : Condition) : Bool :=
  match conditionPort c with
  | some p => body.voter.get p
  | none => true

/-- R62, R82 check 6: a fire offset is greater than the decision offset of every voter the condition depends on. -/
def afterDecisions (body : RecipeBody) (fire : Offset) (c : Condition) : Bool :=
  (conditionVoters body c).all (fun p => (body.decision.get p).toNat < fire.toNat)

/-! ### Conflict windows and policies (R84 to R86) -/

/-- The length of a window for the conflict check: the width of COUNTS, the channel's conflict span otherwise (R84). -/
def windowLength (span : Half) : Width → Nat
  | .counts n => n.toNat
  | .time _ => span.toNat
  | .latch => span.toNat

/-- The anchor of a bound action's window (R84): the fire point of an ARMED action, the start position of an ON one,
LP for one in WAIT_GAP. -/
def State.windowAnchor (s : State) (a : Action) : Position :=
  match a.state with
  | .ahead => s.firePoint a
  | .overdue => s.firePoint a
  | .on => a.start.getD s.pos.lp
  | .waitGap => s.pos.lp

/-- Two windows overlap (R84). -/
def windowsOverlap (s1 : Position) (l1 : Nat) (s2 : Position) (l2 : Nat) : Bool :=
  forwardDistance s1 s2 < l1 || forwardDistance s2 s1 < l2

/-- The actions of a channel whose windows overlap a new one, in schedule order (R84). -/
def State.overlapping (s : State) (c : Fin 16) (anchor : Position) (width : Width) : List Action :=
  let span := (s.channel c).span
  (s.actionsOf (s.schedule c)).filter (fun a =>
    windowsOverlap anchor (windowLength span width) (s.windowAnchor a) (windowLength span a.width))

/-- The rank of a poster: AUTO 0, a port its rank in the line configuration (R86). -/
def State.posterRank (s : State) : Poster → Nat
  | .auto => 0
  | .station p => (s.line.ranks.get p).toNat

/-- What the conflict check of the channel's policy finds (R85, R86): accepted, with the actions to be displaced, or
refused OVERLAP with the first conflicting action. -/
inductive ConflictResult where
  | accepted (displaced : List Handle)
  | overlap (first : Action)

/-- The conflict check (R85, R86): under REFUSE any overlap refuses; under MERGE none does; under PRIORITY the new
action is accepted when no overlapping action is FIRING and its rank is above that of each. -/
def State.conflictCheck (s : State) (c : Fin 16) (poster : Poster) (anchor : Position) (width : Width) :
    ConflictResult :=
  match s.overlapping c anchor width with
  | [] => .accepted []
  | first :: more =>
    match (s.channel c).policy with
    | .refuse => .overlap first
    | .merge => .accepted []
    | .priority =>
      if (first :: more).all (fun a => !a.firing && s.posterRank poster < s.posterRank a.poster) then
        .accepted ((first :: more).map Action.handle)
      else .overlap first

/-! ### Binding and freeing (R76, R83) -/

/-- The generation after a freeing: 255 advances to 1 (R76). -/
def nextGeneration (g : Byte) : Byte := if g = 255 then 1 else g + 1

/-- What a binding fills in (R83 step 3, R87). -/
structure BindRequest where
  item : Half
  channel : Fin 16
  poster : Poster
  report : Option Port
  fire : Offset
  width : Width
  condition : Condition
  condState : CondState
  tag : Half

/-- The record of a newly bound action: ARMED AHEAD, start position absent, flags clear (R83). -/
def BindRequest.record (r : BindRequest) (h : Handle) (order : Nat) : Action :=
  { handle := h, item := r.item, channel := r.channel, poster := r.poster, report := r.report, fire := r.fire,
    width := r.width, condition := r.condition, condState := r.condState, tag := r.tag, state := .ahead,
    start := none, handOver := none, timer := none, late := false, delayed := false, order := order }

/-- Binding (R76, R83 steps 3 and 4): the entry at the head of the free list is taken, the handle joins the end of
the item's action list and part 3 of the channel's schedule. `none` when no entry is free. -/
def State.bindAction (s : State) (r : BindRequest) : Option (Handle × State) :=
  match s.actions.freeList with
  | [] => none
  | i :: rest =>
    let g := (s.entry i).generation
    let h := makeHandle g i
    let s1 := { s with actions := { s.actions with freeList := rest, bindCount := s.actions.bindCount + 1 } }
    let s2 := s1.setEntry i ⟨g, some (r.record h s.actions.bindCount)⟩
    let s3 := s2.updItem r.item (fun it => { it with actions := it.actions ++ [h] })
    some (h, s3.placeAhead r.channel h)

/-- Freeing an entry (R76): its generation advances and it joins the tail of the free list. -/
def State.freeEntry (s : State) (i : Fin 256) : State :=
  let s1 := s.setEntry i ⟨nextGeneration (s.entry i).generation, none⟩
  { s1 with actions := { s1.actions with freeList := s1.actions.freeList ++ [i] } }

/-! ### Firing (R89, R90, R92) -/

/-- The action `a` that the handle `h` names becomes FIRING and is handed to its channel (R89, R90): its hand-over point is
its fire point at that moment, and its handle moves to the end of part 1. -/
def State.becomeFiring (s : State) (h : Handle) (a : Action) (late : Bool) : State :=
  let s1 := s.updAction h (fun x =>
    { x with state := .waitGap, handOver := some (s.firePoint a), late := x.late || late })
  (s1.moveToFiring a.channel h).handOver a.channel h

/-- The fire point of the ARMED AHEAD action `a` that the handle `h` names is reached (R89): TRUE fires, UNRESOLVED becomes
OVERDUE. -/
def State.reachFire (s : State) (h : Handle) (a : Action) : State :=
  match a.condState with
  | .holds => s.becomeFiring h a false
  | .unresolved => (s.updAction h (fun x => { x with state := .overdue })).moveToOverdue a.channel h
  | .fails => s

/-! ### Ending (R93, R94) -/

/-- R94: the forward distance from the start position to the end position, held at 16,777,215; 0 for an action that
never turned ON. -/
def actionRun (start : Option Position) (lp : Position) : Offset :=
  match start with
  | some st => BitVec.ofNat 24 (min (forwardDistance st lp) 16777215)
  | none => 0

/-- The ACTION_END notice of an ending (R94). -/
def actionEndBody (a : Action) (outcome : ActionOutcome) (lp : Position) : NoticeBody :=
  .actionEnd a.handle a.tag outcome a.late a.delayed a.firing a.start.isSome (actionRun a.start lp)

/-- The handle leaves the channel's schedule and the item's action list (R93 step 2). -/
def State.unlist (s : State) (a : Action) : State :=
  (s.setSchedule a.channel ((s.schedule a.channel).filter (fun x => x ≠ a.handle))).updItem a.item
    (fun it => { it with actions := it.actions.filter (fun x => x ≠ a.handle) })

/-- Steps 1 to 4 of an ending (R93): the window of a FIRING action closes, the handle leaves its lists, ACTION_END is
made, the entry is freed. -/
def State.endCore (s : State) (h : Handle) (outcome : ActionOutcome) : State :=
  match s.action? h with
  | none => s
  | some a =>
    let s1 := if a.firing then s.leaveSet a.channel h else s
    let s2 := s1.unlist a
    let s3 := s2.offerReport a.report a.item s.pos.lp (actionEndBody a outcome s.pos.lp)
    s3.freeEntry (handleIndex h)

/-- The ARMED actions of a list ended LOST, and the FIRING ones left (R44 step 1). -/
def State.loseArmed (s : State) (hs : List Handle) : State :=
  hs.foldl (fun t h => if t.isFiring h then t else t.endCore h .lost) s

/-- ARMED actions ended LOST and FIRING ones ABORTED, in action-list order (R49 to R51). -/
def State.cutActions (s : State) (hs : List Handle) : State :=
  hs.foldl (fun t h => t.endCore h (if t.isFiring h then .aborted else .lost)) s

end Sys2Proof.Machine
end

