-- ==== Sys2Proof/Machine/Items.lean ====
section
/-! DEFINITION. The Item Table's own rules (spec 03): removal (R46), exit and the head check (R44, R45, R47), jam
(R43), and the whole of an action's ending with the completion of a LEAVING item (R93 step 5). -/
namespace Sys2Proof.Machine

/-- The item with a number is the head (R33). -/
def State.isHead (s : State) (n : Half) : Bool :=
  match s.items.live with
  | [] => false
  | it :: _ => it.number = n

/-- Removal of an item, steps 1 to 4 of R46: the record leaves the table, the recipe's reference count falls by one,
the number becomes free, ITEM_EXIT is posted with the slots as they stand (log 40 for a pending verdict among them). -/
def State.removeRecord (s : State) (n : Half) (reason : ExitReason) : State :=
  match s.item? n with
  | none => s
  | some it =>
    let s1 := s.setLive (s.items.live.filter (fun x => x.number ≠ n))
    let s2 := s1.updRecipe it.recipe (fun r => { r with refCount := r.refCount - 1 })
    s2.post n s.pos.lp (.itemExit reason it.flags it.slots)

/-- The head reaches its exit (R44): its ARMED actions end LOST; it becomes LEAVING if FIRING actions remain, and is
removed with reason EXIT if none do. The answer says whether it was removed. -/
def State.reachExit (s : State) : Bool × State :=
  match s.items.live with
  | [] => (false, s)
  | it :: _ =>
    let s1 := s.loseArmed it.actions
    if ((s1.item? it.number).elim [] Item.actions).isEmpty then (true, s1.removeRecord it.number .exit)
    else (false, s1.updItem it.number (fun x => { x with state := .leaving }))

/-- The head check of R47, on at most `k` heads: a new head whose exit point is behind LP reaches its exit at once,
and so on in one cascade until a head becomes LEAVING or its exit point is ahead of LP. -/
def State.headCheck : Nat → State → State
  | 0, s => s
  | k + 1, s =>
    match s.items.live with
    | [] => s
    | it :: _ =>
      if it.state ≠ .leaving && !isAhead s.pos.lp (s.exitPointOf it) then
        if s.reachExit.1 then State.headCheck k s.reachExit.2 else s.reachExit.2
      else s

/-- The head check, through the whole table if need be (R47). -/
def State.checkHead (s : State) : State := State.headCheck s.items.live.length s

/-- The exit point of the head is reached (R44), with the head check that a removal calls for (R46 step 5). -/
def State.exitHead (s : State) : State := if s.reachExit.1 then s.reachExit.2.checkHead else s.reachExit.2

/-- Removal of an item with the head check when it was the head (R46). -/
def State.removeItem (s : State) (n : Half) (reason : ExitReason) : State :=
  if s.isHead n then (s.removeRecord n reason).checkHead else s.removeRecord n reason

/-- An ending (R93), with step 5: a LEAVING item whose action list is now empty is removed with reason EXIT. -/
def State.endAction (s : State) (h : Handle) (outcome : ActionOutcome) : State :=
  match s.action? h with
  | none => s
  | some a =>
    let s1 := s.endCore h outcome
    match s1.item? a.item with
    | some it => if it.state = .leaving && it.actions.isEmpty then s1.removeItem it.number .exit else s1
    | none => s1

/-- The item's actions cut short and the item removed (R49, R50): ARMED actions end LOST, FIRING ones ABORTED, in
action-list order. -/
def State.takeOut (s : State) (n : Half) (reason : ExitReason) : State :=
  match s.item? n with
  | none => s
  | some it => (s.cutActions it.actions).removeItem n reason

/-- An ENTERING item reaches its jam point (R43). -/
def State.jamItem (s : State) (n : Half) : State :=
  match s.item? n with
  | none => s
  | some it =>
    let len := s.jamLengthOf it
    let s1 := s.updItem n (fun x => { x with state := .tracked, flags := { x.flags with jam := true } })
    (s1.post n (plusCounts it.entry len.toNat) (.jam len)).raiseHold causeJam

end Sys2Proof.Machine
end

