-- ==== Sys2Proof/Machine/Verdicts.lean ====
section
/-! DEFINITION. The Verdict Unit (spec 06): the close of slots (R110 to R113), the resolution of actions (R80, R90) and
ITEM_DECIDED (R115). -/
namespace Sys2Proof.Machine

/-- One action decided again after a close (R80, R90): TRUE or FALSE is stored, and an action resolved FALSE ends SKIPPED.
Only an UNRESOLVED action is decided. -/
def State.resolveAction (s : State) (slots : PerPort Slot) (h : Handle) : State :=
  match s.action? h with
  | none => s
  | some a =>
    if a.condState ≠ .unresolved then s
    else
      match decideCondition slots a.condition with
      | .unresolved => s
      | .fails => (s.updAction h (fun x => { x with condState := .fails })).endAction h .skipped
      | .holds => s.updAction h (fun x => { x with condState := .holds })

/-- An OVERDUE action that a close decides TRUE (R90). -/
def State.dueAtClose (s : State) (slots : PerPort Slot) (h : Handle) : Bool :=
  (s.action? h).any (fun a =>
    a.state = .overdue && a.condState = .unresolved && decideCondition slots a.condition = .holds)

/-- An OVERDUE action resolved TRUE fires with LATE (R90). -/
def State.fireOverdue (s : State) (h : Handle) : State :=
  match s.action? h with
  | some a => if a.state = .overdue then s.becomeFiring h a true else s
  | none => s

/-- Every UNRESOLVED action of the item decided again, in action-list order (R80, R111 step 3), and the OVERDUE ones decided
TRUE fired, those of one channel in schedule order (R79, R138; log 38). -/
def State.resolveItem (s : State) (n : Half) : State :=
  match s.item? n with
  | none => s
  | some it =>
    (s.inScheduleOrder (it.actions.filter (s.dueAtClose it.slots))).foldl State.fireOverdue
      (it.actions.foldl (fun t h => t.resolveAction it.slots h) s)

/-- R115: one or more of the item's slots closed under R112, read from the slots and the recipe. -/
def holdDefaultTaken (body : RecipeBody) (slots : PerPort Slot) : Bool :=
  ports3.any (fun p =>
    match slots.get p with
    | .closed _ _ .byDefault => body.default_.get p = .hold
    | _ => false)

/-- ITEM_DECIDED, posted when a close leaves no voter slot OPEN (R111 step 4, R115). -/
def State.postDecided (s : State) (n : Half) (source : CloseSource) : State :=
  match s.item? n with
  | none => s
  | some it =>
    let xs := voterSlots it.slots
    if xs.any Slot.isOpen then s
    else s.post n s.pos.lp (.itemDecided it.slots (!xs.all (fun x => x.closedAs .accept))
      (holdDefaultTaken (s.bodyOf it) it.slots) source)

/-- A close as one event (R111): the slots become CLOSED, LATE_VERDICT is raised when a HOLD default was taken, the
item's actions are resolved, ITEM_DECIDED follows. -/
def State.closeSlots (s : State) (n : Half) (slots : PerPort Slot) (heldDefault : Bool) (source : CloseSource) :
    State :=
  let s1 := s.updItem n (fun it => { it with slots := slots })
  let s2 := if heldDefault then s1.raiseHold causeLateVerdict else s1
  (s2.resolveItem n).postDecided n source

/-- The close of an OPEN slot at its decision point (R110): the pending verdict with source PORT, or the recipe's
default with source DEFAULT and code 0, HOLD closing as REJECT. -/
def closedSlot (pending : Option (Verdict × BitVec 6)) (d : VoterDefault) : Slot :=
  match pending with
  | some (v, code) => .closed v code .byPort
  | none => .closed (if d = .accept then .accept else .reject) 0 .byDefault

/-- The decision point of a port's slot is reached (R110 to R112). A slot that is not OPEN is left as it is. -/
def State.closeAtDecision (s : State) (n : Half) (p : Port) : State :=
  match s.item? n with
  | none => s
  | some it =>
    match it.slots.get p with
    | .opened pending =>
      let d := (s.bodyOf it).default_.get p
      s.closeSlots n (it.slots.set p (closedSlot pending d)) (pending.isNone && d = .hold)
        (if pending.isSome then .byPort else .byDefault)
    | _ => s

/-- An OPEN slot closed REJECT, code 0, source FORCED; the others untouched (R113). -/
def forceSlot : Slot → Slot
  | .opened _ => .closed .reject 0 .forced
  | x => x

/-- A forced close (R113): every OPEN voter slot closes together; with none OPEN nothing is done. -/
def State.forceClose (s : State) (n : Half) : State :=
  match s.item? n with
  | none => s
  | some it =>
    if (voterSlots it.slots).any Slot.isOpen then
      s.closeSlots n ⟨forceSlot it.slots.a, forceSlot it.slots.b, forceSlot it.slots.c⟩ false .forced
    else s

end Sys2Proof.Machine
end

