-- ==== Sys2Proof/Machine/Checkpoints.lean ====
section
/-! DEFINITION. The Checkpoint Matcher (spec 07) and the watched points of an item: misses (R130, R131), the points an
event treats as reached at once (R40, R126), matching and correction (R123 to R126, R101), phantoms (R128). -/
namespace Sys2Proof.Machine

/-! ### Misses (R130, R131) -/

/-- The offset of the miss end of an input from the base: N + W (R122). -/
def missOffset (i : Input) : Nat := i.nominal.toNat + i.window.toNat

/-- The on-miss action (R131). -/
def State.onMissAction (s : State) (n : Half) (m : OnMiss) : State :=
  match m with
  | .note => s
  | .hold => s.raiseHold causeCheckpointMiss
  | .reject => s.forceClose n
  | .remove => s.takeOut n .missed

/-- The miss end of an unmarked input is reached for an item (R130). -/
def State.missCheckpoint (s : State) (n : Half) (k : Fin 8) : State :=
  match s.item? n with
  | none => s
  | some it =>
    let i := s.input k
    let s1 := s.updItem n (fun x =>
      { x with marks := x.marks ++ [⟨k, .missed⟩], flags := { x.flags with missed := true } })
    let s2 := s1.post n (plusCounts it.base (missOffset i))
      (.checkpointMiss k i.onMiss (it.marks.length + 1) it.correction)
    s2.onMissAction n i.onMiss

/-! ### Watched points of an item (R8, R40, R126) -/

/-- The points of an item that its record alone gives (R8): the jam point, the decision points, the miss ends, and
the head's exit point. -/
inductive ItemPoint where
  | jam
  | decision (p : Port)
  | missEnd (k : Fin 8)
  | exit
deriving DecidableEq, Repr

/-- A watched point: its offset, its position, and what it is. -/
structure WatchedPoint where
  offset : Nat
  position : Position
  kind : ItemPoint

/-- The points of an item that are watched now: the jam point of an ENTERING item (R43; left out with `jam := false`),
the decision point of each OPEN slot (R106), the miss end of each unmarked CHECKPOINT input (R129), the exit point of
a head that is ENTERING or TRACKED (R44). -/
def State.watchedPoints (s : State) (jam : Bool) (it : Item) : List WatchedPoint :=
  (if jam && it.state = .entering then
    [⟨(s.jamLengthOf it).toNat, plusCounts it.entry (s.jamLengthOf it).toNat, .jam⟩] else []) ++
  (ports3.filter (fun p => (it.slots.get p).isOpen)).map (fun p =>
    ⟨((s.bodyOf it).decision.get p).toNat, plusCounts it.base ((s.bodyOf it).decision.get p).toNat, .decision p⟩) ++
  ((List.finRange 8).filter (fun k => (s.input k).role = .checkpoint && it.unmarked k)).map (fun k =>
    ⟨missOffset (s.input k), plusCounts it.base (missOffset (s.input k)), .missEnd k⟩) ++
  (if s.isHead it.number && it.state ≠ .leaving then
    [⟨s.line.exitDistance.toNat, s.exitPointOf it, .exit⟩] else [])

/-- A watched point of an item acted on by its own rule: R43, R110, R130, R44. -/
def State.actOnPoint (s : State) (n : Half) : ItemPoint → State
  | .jam => s.jamItem n
  | .decision p => s.closeAtDecision n p
  | .missEnd k => s.missCheckpoint n k
  | .exit => s.exitHead

/-- A point is behind LP (R7: not ahead of it). At an item's creation no point is behind LP while the entry position
is itself ahead of LP (R40, log 14). -/
def pointBehind (lp : Position) (created : Option Position) (w : WatchedPoint) : Bool :=
  match created with
  | some x => !isAhead lp x && !isAhead lp w.position
  | none => !isAhead lp w.position

/-- The points of an item that are behind LP and of the least offset among those: the next to be acted on. -/
def State.nextBehind (s : State) (created : Option Position) (n : Half) : List WatchedPoint :=
  match s.item? n with
  | none => []
  | some it =>
    let ws := (s.watchedPoints created.isSome it).filter (pointBehind s.pos.lp created)
    ws.filter (fun w => ws.all (fun v => w.offset ≤ v.offset))

/-- The points of an item that are behind LP treated as reached at once, in increasing order of offset; of equal
offsets either may be acted on first (R40, R126, R127; log 5). `created` is the entry position when the item is being
created, and `none` after a correction. The work ends when no such point is left or the item is gone. -/
def State.walkPoints : Nat → Option Position → Half → State → State
  | 0, _, _, s => s
  | k + 1, created, n, s =>
    let ws := s.nextBehind created n
    let c := s.choose ws.length
    match ws[c.1]? with
    | none => s
    | some w => State.walkPoints k created n (c.2.actOnPoint n w.kind)

/-- An item has at most one jam point, three decision points, eight miss ends and one exit point. -/
def maxItemPoints : Nat := 13

/-! ### Matching and correction (R123 to R126, R101) -/

/-- The expected position of an item at an input (R122). -/
def Item.expectedAt (it : Item) (i : Input) : Position := plusCounts it.base i.nominal.toNat

/-- The item is a candidate for a leading edge on input `k` latched at `x` (R123). -/
def candidateFor (k : Fin 8) (i : Input) (x : Position) (it : Item) : Bool :=
  it.unmarked k &&
    forwardDistance (x - BitVec.ofNat 32 i.window.toNat) (it.expectedAt i) ≤ 2 * i.window.toNat

/-- The slip (R124): the forward distance from the expected position to `x` when that is at most W, and otherwise
minus the forward distance from `x` to the expected position. -/
def slipOf (i : Input) (x e : Position) : Int :=
  if forwardDistance e x ≤ i.window.toNat then (forwardDistance e x : Int) else -(forwardDistance x e : Int)

/-- One ARMED action whose moved fire point is ahead of LP re-placed (R101): an OVERDUE one is AHEAD again. -/
def State.replaceAction (s : State) (h : Handle) : State :=
  match s.action? h with
  | none => s
  | some a =>
    if !isAhead s.pos.lp (s.firePoint a) then s
    else
      match a.state with
      | .ahead => s.placeAhead a.channel h
      | .overdue => (s.updAction h (fun x => { x with state := .ahead })).placeAhead a.channel h
      | _ => s

/-- An ARMED AHEAD action whose fire point is behind LP (R101). -/
def State.pointPassed (s : State) (h : Handle) : Bool :=
  (s.action? h).any (fun a => a.state = .ahead && !isAhead s.pos.lp (s.firePoint a))

/-- The fire point of an ARMED AHEAD action treated as reached (R89, R101). -/
def State.reachAhead (s : State) (h : Handle) : State :=
  match s.action? h with
  | some a => if a.state = .ahead then s.reachFire h a else s
  | none => s

/-- The item's ARMED actions after its base has moved (R101, R126 step 1): those whose fire point is ahead of LP are
re-placed in action-list order, and those whose fire point is behind it are acted on, those of one channel in the order in
which they stood in its schedule (R79, R89, R138; log 38). -/
def State.replaceActions (s : State) (n : Half) : State :=
  match s.item? n with
  | none => s
  | some it =>
    (s.inScheduleOrder (it.actions.filter s.pointPassed)).foldl State.reachAhead
      (it.actions.foldl State.replaceAction s)

/-- A match (R124): the slip is added to the correction, the mark is appended, CHECKPOINT_MATCH is posted, and the
correction's effects follow in the order of R126, the fires of step 1 before the closes of step 2, though R91 and R101
would let either come first (log 39). The slip is measured from the base as it stands, so that the final correction after
matches at two inputs is that of the later one, whatever R133 says of it (log 50). -/
def State.matchItem (s : State) (k : Fin 8) (x : Position) (it : Item) : State :=
  let slip := slipOf (s.input k) x (it.expectedAt (s.input k))
  let s1 := s.updItem it.number (fun r =>
    { r with correction := r.correction + slip, marks := r.marks ++ [⟨k, .matched slip⟩] })
  let s2 := s1.post it.number x (.checkpointMatch k (it.marks.length + 1) slip (it.correction + slip))
  State.walkPoints maxItemPoints none it.number (s2.replaceActions it.number)

/-- A leading edge taken on a CHECKPOINT input (R123, R124, R128): the oldest candidate is matched, or PHANTOM is
posted. -/
def State.checkpointEdge (s : State) (k : Fin 8) (x : Position) : State :=
  match s.items.live.find? (candidateFor k (s.input k) x) with
  | some it => s.matchItem k x it
  | none => s.post 0 x (.phantom k s.pos.lp)

end Sys2Proof.Machine
end

