-- ==== Sys2Proof/Machine/Stage.lean ====
section
/-! DEFINITION. The Stage Queue's own rules (spec 04): applying the head (R69 to R71). -/
namespace Sys2Proof.Machine

/-- The head of the Stage Queue applied, steps 1 to 3 of R71: its recipe becomes current, it leaves the queue,
RECIPE_SWITCHED is posted. -/
def State.applyStage (s : State) : State :=
  match s.recipes.stage with
  | [] => s
  | e :: rest =>
    { s with recipes := { s.recipes with current := e.recipe, stage := rest } }.post 0 s.pos.lp
      (.recipeSwitched e.recipe s.recipes.current e.trigger rest.length)

/-- The check of a new head (R70, R71 step 4), on at most `k` heads: an AT_POSITION head whose point is behind LP is
applied at once. -/
def State.checkStage : Nat → State → State
  | 0, s => s
  | k + 1, s =>
    match s.recipes.stage with
    | ⟨_, .atPosition p⟩ :: _ => if isAhead s.pos.lp p then s else State.checkStage k s.applyStage
    | _ => s

/-- The check of a new head, through the whole queue if need be. -/
def State.checkStageHead (s : State) : State := State.checkStage s.recipes.stage.length s

/-- The head has trigger NEXT_ENTRY (R69). -/
def State.nextEntryStaged (s : State) : Bool :=
  match s.recipes.stage with
  | ⟨_, .nextEntry⟩ :: _ => true
  | _ => false

/-- A forward count has made LP equal to the point of an AT_POSITION head (R70). -/
def State.stagePointReached (s : State) : Bool :=
  match s.recipes.stage with
  | ⟨_, .atPosition p⟩ :: _ => p = s.pos.lp
  | _ => false

end Sys2Proof.Machine
end

