-- ==== Sys2Proof/Machine/Entry.lean ====
section
/-! DEFINITION. Edges of the ENTRY input at the Item Table (spec 03): blanking (R36), the full table (R37), creation
(R34, R38, R40), auto-actions (R39, R87), the trailing edge and the length check (R41, R42). -/
namespace Sys2Proof.Machine

/-! ### Numbering (R34) -/

/-- The number after `n`: 65,535 wraps to 1 (R34). -/
def nextNumber (n : Half) : Half := if n = 0xFFFF then 1 else n + 1

/-- The first number that no live item holds, searching upward from `n` over at most `k` numbers held (R34). -/
def firstFreeNumber : Nat → Half → List Item → Half
  | 0, n, _ => n
  | k + 1, n, live => if live.any (fun it => it.number = n) then firstFreeNumber k (nextNumber n) live else n

/-! ### Auto-actions (R39, R87) -/

/-- What the offering of a creation's templates has done so far: how many were created and how many are missing,
whether one found no free entry, and the handles of those whose condition is already FALSE. -/
structure TemplateTally where
  created : Nat
  missing : Nat
  noSpace : Bool
  skipped : List Handle

/-- The ARMED actions of a list ended DISPLACED, in schedule order (R86). -/
def State.displace (s : State) (hs : List Handle) : State := hs.foldl (fun t h => t.endAction h .displaced) s

/-- The request of an auto-action: poster AUTO, report port and tag from the template (R87). -/
def autoRequest (n : Half) (t : Template) (c : CondState) : BindRequest :=
  { item := n, channel := t.channel, poster := .auto, report := t.report, fire := t.fire, width := t.width,
    condition := t.condition, condState := c, tag := t.tag }

/-- One template offered for the new item `n` with entry position `x` and slots `slots` (R87): its fire point ahead
of LP, a free entry, and the conflict check with rank 0, unless its condition is FALSE. -/
def State.offerTemplate (n : Half) (x : Position) (slots : PerPort Slot) (acc : State × TemplateTally)
    (t : Template) : State × TemplateTally :=
  let s := acc.1
  let y := acc.2
  let point := plusCounts x t.fire.toNat
  let c := decideCondition slots t.condition
  let notCreated := (s, { y with missing := y.missing + 1 })
  if !isAhead s.pos.lp point then notCreated
  else if s.actions.freeList.isEmpty then (s, { y with missing := y.missing + 1, noSpace := true })
  else
    match (if c = .fails then .accepted [] else s.conflictCheck t.channel .auto point t.width) with
    | .overlap _ => notCreated
    | .accepted displaced =>
      match (s.displace displaced).bindAction (autoRequest n t c) with
      | none => notCreated
      | some (h, s1) =>
        (s1, { y with created := y.created + 1, skipped := if c = .fails then y.skipped ++ [h] else y.skipped })

/-! ### Creation (R38) -/

/-- The slots of a new item: OPEN without a pending verdict for a voter, NONE for any other port (R38, R105). -/
def newSlots (voter : PerPort Bool) : PerPort Slot :=
  let f := fun v => if v then Slot.opened none else .absent
  ⟨f voter.a, f voter.b, f voter.c⟩

/-- The record of a new item (R38 step 3). -/
def newItem (n : Half) (x : Position) (recipe : Fin 8) (slots : PerPort Slot) : Item :=
  { number := n, state := .entering, entry := x, length := none, correction := 0, recipe := recipe, slots := slots,
    marks := [], actions := [], flags := ⟨false, false, false, false⟩, missing := 0 }

/-- Steps 2 to 5 of a creation (R38): the number, the record at the tail, the recipe's reference count, the pending
trailing edge. The answer carries the number given. -/
def State.addItem (s : State) (x : Position) : Half × State :=
  let n := firstFreeNumber s.items.live.length s.items.nextNumber s.items.live
  let recipe := s.recipes.current
  let it := newItem n x recipe (newSlots (s.recipe recipe).body.voter)
  let s1 := { s with items := { s.items with
    live := s.items.live ++ [it], nextNumber := nextNumber n, trailing := .item n } }
  (n, s1.updRecipe recipe (fun r => { r with refCount := r.refCount + 1 }))

/-- Step 6 of a creation (R38, R39): every template of the recipe offered in template order; the missing count and
INCOMPLETE; ACTION_FULL raised once when a template found no free entry. -/
def State.offerTemplates (s : State) (n : Half) (x : Position) : State × TemplateTally :=
  let body := (s.recipe s.recipes.current).body
  let r := body.templates.foldl (State.offerTemplate n x (newSlots body.voter)) (s, ⟨0, 0, false, []⟩)
  let s1 := r.1.updItem n (fun it =>
    { it with missing := r.2.missing, flags := { it.flags with incomplete := r.2.missing ≠ 0 } })
  (if r.2.noSpace then s1.raiseHold causeActionFull else s1, r.2)

/-- A leading edge that passes R36 and R37 creates an item (R38). Auto-actions whose condition is already FALSE end SKIPPED
after ITEM_ENTER, in template order (R38, R87; log 48). The check of an AT_POSITION entry that step 1 brings to the head of
the Stage Queue waits until the creation is complete (R69). -/
def State.createItem (s : State) (x : Position) : State :=
  let staged := s.nextEntryStaged
  let s1 := if staged then s.applyStage else s
  let added := s1.addItem x
  let n := added.1
  let offered := added.2.offerTemplates n x
  let tally := offered.2
  let s4 := offered.1.post n x
    (.itemEnter offered.1.recipes.current (offered.1.recipe offered.1.recipes.current).body.voter tally.created
      tally.missing)
  let s5 := tally.skipped.foldl (fun t h => t.endAction h .skipped) s4
  let s6 := State.walkPoints maxItemPoints (some x) n s5
  if staged then s6.checkStageHead else s6

/-! ### Edges of the ENTRY input (R36, R37, R41, R42) -/

/-- R36: the entry position of the newest live item allows an edge latched at `x`. -/
def blankingPassed (blanking : Offset) (newest x : Position) : Bool :=
  isAhead newest x && blanking.toNat ≤ forwardDistance newest x

/-- A leading edge accepted for creation meets the full table or creates an item (R37, R38). -/
def State.acceptEntry (s : State) (x : Position) : State :=
  if s.items.live.length < 64 then s.createItem x
  else
    let count := saturatingSucc s.items.entryLost
    (({ s with items := { s.items with entryLost := count, trailing := .discard } }.post 0 x
      (.entryLost count))).raiseHold causeItemFull

/-- A leading edge of the ENTRY input latched at `x` (R36). -/
def State.entryLeading (s : State) (x : Position) : State :=
  match s.items.live.getLast? with
  | none => s.acceptEntry x
  | some newest =>
    if blankingPassed s.line.entryBlanking newest.entry x then s.acceptEntry x
    else
      let count := saturatingSucc s.items.reEntry
      { s with items := { s.items with reEntry := count, trailing := .discard } }.post newest.number x
        (.reEntryIgnored count)

/-- The length of an item whose trailing edge is latched at `x`, and the limit it breaks, if any (R41, R42): 0 and the
reversed belt when `x` lies 2^31 or more ahead of the entry position. -/
def lengthCheck (body : RecipeBody) (entry x : Position) : BitVec 32 × Option LengthLimit :=
  let d := x - entry
  if 2147483648 ≤ d.toNat then (0, some .reversed)
  else if body.lengthMin ≠ 0 ∧ d.toNat < body.lengthMin.toNat then (d, some .minimum)
  else if body.lengthMax ≠ 0 ∧ body.lengthMax.toNat < d.toNat then (d, some .maximum)
  else (d, none)

/-- A trailing edge applied to its live ENTERING item: the length, the state TRACKED, and the length check (R41,
R42). -/
def State.applyLength (s : State) (it : Item) (x : Position) : State :=
  let r := lengthCheck (s.bodyOf it) it.entry x
  let s1 := s.updItem it.number (fun y => { y with length := some r.1, state := .tracked })
  match r.2 with
  | none => s1
  | some limit =>
    let policy := (s.bodyOf it).policy
    let s2 := s1.updItem it.number (fun y => { y with flags := { y.flags with lengthFault := true } })
    let s3 := s2.post it.number x (.lengthFault r.1 limit policy)
    if policy = .reject then s3.forceClose it.number else s3

/-- A trailing edge of the ENTRY input latched at `x` (R41): the pending trailing edge becomes NONE in every case. -/
def State.entryTrailing (s : State) (x : Position) : State :=
  let s1 := { s with items := { s.items with trailing := .nothing } }
  match s.items.trailing with
  | .item n =>
    match s1.item? n with
    | some it => if it.state = .entering then s1.applyLength it x else s1
    | none => s1
  | _ => s1

end Sys2Proof.Machine
end

