-- ==== Sys2Proof/Machine/Detect.lean ====
section
/-! DEFINITION. Detect inputs (spec 02): levels (R17), raw transitions (R18), measurements (R19), taken edges (R20,
R22 to R25), and loads with return suppression (R21). -/
namespace Sys2Proof.Machine

/-- A pin level in active-level terms: `true` for ACTIVE (R17). -/
def activeAt (l : ActiveLevel) (pin : Bool) : Bool :=
  match l with
  | .high => pin
  | .low => !pin

/-- The level of the input's pin in active-level terms (R17). -/
def Input.level (i : Input) : Bool := activeAt i.active i.pin

/-- The accepted level loaded from the pin (R21). -/
def Input.load (i : Input) : Input := { i with accepted := i.level, measurement := none, suppress := i.level }

/-- The level to which the pin of input `k` goes at the next RAW_TRANSITION that waits for it. -/
def State.comingLevel (s : State) (k : Fin 8) : Option Bool :=
  s.pending.findSome? (fun c =>
    match c with
    | .rawTransition j level => if j = k then some level else none
    | _ => none)

/-- The pin of input `k` as a CONFIG_INPUT that loads the level finds it (R21, R29). A raw transition that waits to be
taken behind the command meets it: the pin may already stand at the new level, and the load then finds it there, which is
R29's outcome of the command taken first. Whether it does is an open choice (log 37). -/
def State.findPin (s : State) (k : Fin 8) : State :=
  match s.comingLevel k with
  | none => s
  | some level =>
    let c := s.chooseBool
    if c.1 then c.2.updInput k (fun i => { i with pin := level }) else c.2

/-- A leading edge of the MARK input `old` may have met a command that finds its pin at `pin` (R29, second row): the pin is
ACTIVE, return suppression is clear (under it the ACTIVE level was loaded and no edge led to it), and either the pin stood
there before the command, or its raw transition meets the command and is an edge at once, at filter 0 and from INACTIVE. -/
def Input.leadingMeets (old : Input) (pin : Bool) : Bool :=
  old.role = .mark && !old.suppress && activeAt old.active pin &&
    (pin = old.pin || (old.filter = 0 && !old.accepted))

/-- The accepted level of input `k` loaded (R21, R28), where `old` is the input before the command. Where a command that
changes the active level of a MARK input meets its leading edge, R29's second row has the load find ACTIVE and R21 and R28
have it find INACTIVE; which of the two is an open choice (log 36). Every other load follows R21 and R28. -/
def State.loadInput (s : State) (k : Fin 8) (old : Input) : State :=
  let i := s.input k
  if i.active ≠ old.active ∧ old.leadingMeets i.pin = true then
    let c := s.chooseBool
    if c.1 then c.2.updInput k (fun i => { i with accepted := true, measurement := none, suppress := true })
    else c.2.updInput k Input.load
  else s.updInput k Input.load

/-- A MARK notice (R24). -/
def State.postMark (s : State) (k : Fin 8) (x : Position) : State := s.post 0 x (.mark k s.pos.lp)

/-- A taken edge handed on by the input's role (R20, R22 to R24). -/
def State.routeEdge (s : State) (k : Fin 8) (leading : Bool) (x : Position) : State :=
  match (s.input k).role with
  | .entry => if leading then s.entryLeading x else s.entryTrailing x
  | .checkpoint => if leading then s.checkpointEdge k x else s
  | .mark => if leading then s.postMark k x else s
  | .off => s

/-- An edge taken on input `k` with captured position `x` (R19, R20): the accepted level changes, the measurement
becomes idle, and the edge is handed on, but for a trailing edge under return suppression, which clears it (R21). -/
def State.takeEdge (s : State) (k : Fin 8) (x : Position) : State :=
  let i := s.input k
  let leading := !i.accepted
  if !leading && i.suppress then
    s.updInput k (fun i => { i with accepted := leading, measurement := none, suppress := false })
  else
    (s.updInput k (fun i => { i with accepted := leading, measurement := none })).routeEdge k leading x

/-- The pin of input `k` goes to `level` (R18, R19, R25): away from the accepted level it captures LP and starts the
filter timer, and at filter 0 the edge is taken at once; back at the accepted level it discards a measurement. An OFF
input only has its pin changed. -/
def State.pinChange (s : State) (k : Fin 8) (level : Bool) : State :=
  let s1 := s.updInput k (fun i => { i with pin := level })
  let i := s1.input k
  if i.role = .off ∨ (s.input k).pin = level then s1
  else if i.level = i.accepted then s1.updInput k (fun i => { i with measurement := none })
  else if i.filter = 0 then s1.takeEdge k s.pos.lp
  else s1.updInput k (fun i => { i with measurement := some ⟨s.pos.lp, i.filter⟩ })

/-- The filter timer of input `k` runs out with the pin at its new level (R19). -/
def State.filterExpiry (s : State) (k : Fin 8) : State :=
  match (s.input k).measurement with
  | some m => if (s.input k).role = .off then s else s.takeEdge k m.captured
  | none => s

end Sys2Proof.Machine
end

