-- ==== Sys2Proof/Machine/Position.lean ====
section
/-! DEFINITION. The Position Counter (spec 01): decoding (R1 to R3), the encoder filters (R4), illegal transitions
(R5), counts and the points they reach (R6 to R8), motion (R9), reverse excursions (R10, R11). -/
namespace Sys2Proof.Machine

/-! ### Decoding (R1 to R3) -/

/-- What one change of the phase pair gives, before the invert option. `both` is R2's rise of A and B together in
UP_DOWN: one forward and one backward count, in either order. -/
inductive Decoded where
  | noCount
  | count (d : Direction)
  | both
  | illegal
deriving DecidableEq, Repr

/-- R1: a change of one phase in the forward sequence 00, 10, 11, 01, 00. -/
def quadForward : Bool → Bool → Bool → Bool → Bool
  | false, false, true, false => true
  | true, false, true, true => true
  | true, true, false, true => true
  | false, true, false, false => true
  | _, _, _, _ => false

/-- R1: whether a quadrature mode counts a change. QUAD4 counts every change, QUAD2 every change of A, QUAD1 the
change of A between 00 and 10. -/
def quadCounts (m : EncoderMode) (refA refB newA newB : Bool) : Bool :=
  match m with
  | .quad4 => true
  | .quad2 => refA != newA
  | .quad1 => refA != newA && !refB && !newB
  | _ => false

/-- R1: the decoding of a change of the phase pair in a quadrature mode. -/
def decodeQuad (m : EncoderMode) (refA refB newA newB : Bool) : Decoded :=
  if refA = newA ∧ refB = newB then .noCount
  else if refA ≠ newA ∧ refB ≠ newB then .illegal
  else if quadCounts m refA refB newA newB then
    .count (if quadForward refA refB newA newB then .forward else .backward)
  else .noCount

/-- R1, R2: the decoding of an accepted change of the phase pair. -/
def decodePhases (m : EncoderMode) (refA refB newA newB : Bool) : Decoded :=
  match m with
  | .stepDir => if !refA && newA then .count (if newB then .backward else .forward) else .noCount
  | .upDown =>
    match !refA && newA, !refB && newB with
    | true, true => .both
    | true, false => .count .forward
    | false, true => .count .backward
    | false, false => .noCount
  | m => decodeQuad m refA refB newA newB

/-- R3: the invert option reverses the direction of every count. -/
def invertDirection (invert : Bool) (d : Direction) : Direction :=
  match invert, d with
  | false, d => d
  | true, .forward => .backward
  | true, .backward => .forward

/-! ### What one count has to do (R8 to R10) -/

/-- A thing that one count acts on (R8's table, R9's motion, R10's excursion). -/
inductive CountTask where
  | motion
  | excursion
  | point (n : Half) (w : ItemPoint)
  | stage
  | fire (h : Handle)
  | windowEnd (h : Handle)
deriving DecidableEq, Repr

/-- The ARMED AHEAD actions of a channel whose fire point is LP, in schedule order (R89). -/
def State.firesAt (s : State) (c : Fin 16) : List Action :=
  (s.actionsOf (s.schedule c)).filter (fun a =>
    a.state = .ahead && a.condState ≠ .fails && s.firePoint a = s.pos.lp)

/-- The end point of a COUNTS action in ON: its start position plus its width (R95). -/
def Action.endPoint (a : Action) : Option Position :=
  match a.state, a.start, a.width with
  | .on, some st, .counts n => some (plusCounts st n.toNat)
  | _, _, _ => none

/-- The ON COUNTS actions of a channel whose end point is LP, in schedule order (R95). -/
def State.endsAt (s : State) (c : Fin 16) : List Action :=
  (s.actionsOf (s.schedule c)).filter (fun a => a.endPoint = some s.pos.lp)

/-- The tasks of one channel that may be taken next: the first of its fires and the first of its window ends, in
schedule order (R79, R89, R95). -/
def State.channelTasks (s : State) (c : Fin 16) : List CountTask :=
  ((s.firesAt c).take 1).map (fun a => .fire a.handle) ++
    ((s.endsAt c).take 1).map (fun a => .windowEnd a.handle)

/-- The tasks of one item: its watched points equal to LP (R8). -/
def State.itemTasks (s : State) (it : Item) : List CountTask :=
  ((s.watchedPoints true it).filter (fun w => w.position = s.pos.lp)).map (fun w => .point it.number w.kind)

/-- The line was STILL when the count was taken (R9). -/
def State.motionTask (s : State) : List CountTask := if s.pos.motion = .still then [.motion] else []

/-- What a count still has to do (R8, R9, R10). A backward count reaches no point (R7). -/
def State.countTasks (s : State) (d : Direction) : List CountTask :=
  match d with
  | .forward =>
    s.motionTask ++ s.items.live.flatMap s.itemTasks ++ (if s.stagePointReached then [.stage] else []) ++
      (List.finRange 16).flatMap s.channelTasks
  | .backward =>
    s.motionTask ++
      (if !s.pos.excursion && s.line.reverseAllowance.toNat < forwardDistance s.pos.lp s.pos.hwp then [.excursion]
       else [])

/-- The line becomes MOVING and LINE_MOVING is posted (R9). -/
def State.startMoving (s : State) (d : Direction) : State :=
  { s with pos := { s.pos with motion := .moving } }.post 0 s.pos.lp (.lineMoving d)

/-- The FIRING COUNTS actions, channels in ascending number, each in schedule order (R100). -/
def State.firingCounts (s : State) : List Handle :=
  (List.finRange 16).flatMap (fun c =>
    ((s.actionsOf (s.schedule c)).filter (fun a =>
      a.firing && (match a.width with
        | .counts _ => true
        | _ => false))).map Action.handle)

/-- A reverse excursion begins (R10, R100). -/
def State.beginExcursion (s : State) : State :=
  let s1 := { s with pos := { s.pos with excursion := true } }.post 0 s.pos.lp
    (.reverseFault s.pos.hwp s.line.reverseAllowance)
  let s2 := s1.raiseHold causeReverse
  s2.firingCounts.foldl (fun t h => t.endAction h .aborted) s2

/-- The gaps that a part of the count being taken has started, marked as started by this count (R138, R141, log 15): those
of the channels that are ON in `s`, before that part, and in GAP with no action waiting in `t`, after it. -/
def State.markGaps (s t : State) : State :=
  { t with channels := Vector.ofFn (fun c =>
      let ch := t.channel c
      if (s.channel c).out = .on && ch.out = .gap && ch.waitSet.isEmpty then { ch with gapFresh := true } else ch) }

/-- A COUNTS window's end point is reached (R95), and may start a gap (R141). -/
def State.endWindow (s : State) (h : Handle) : State := s.markGaps (s.endAction h .done)

/-- One task of a count done. A miss end may take an item out with a window ON (R131), and so start a gap of this count
(R138). -/
def State.doTask (s : State) (d : Direction) : CountTask → State
  | .motion => s.startMoving d
  | .excursion => s.beginExcursion
  | .point n (.missEnd k) => s.markGaps (s.actOnPoint n (.missEnd k))
  | .point n w => s.actOnPoint n w
  | .stage => s.applyStage.checkStageHead
  | .fire h => (s.action? h).elim s (s.reachFire h)
  | .windowEnd h => s.endWindow h

/-- The tasks of a count done one after another, in any order the rules allow: the next one is an open choice among
those not yet done (R8 and the 'either may be taken first' of R43, R44, R91, R95, R117, R127; log 5, 6). -/
def State.runTasks : Nat → Direction → State → State
  | 0, _, s => s
  | k + 1, d, s =>
    let ts := s.countTasks d
    let c := s.choose ts.length
    match ts[c.1]? with
    | none => s
    | some t => State.runTasks k d (c.2.doTask d t)

/-- No more tasks than this stand at one count: the motion, the excursion, the stage head, 13 points an item, and a
fire and an end for each handle of a schedule. -/
def State.taskBound (s : State) : Nat :=
  3 + maxItemPoints * s.items.live.length +
    2 * ((List.finRange 16).map (fun c => (s.schedule c).length)).sum

/-- Every gap is older than the next count (R141, log 15). -/
def State.settleGaps (s : State) : State :=
  { s with channels := s.channels.map (fun ch => { ch with gapFresh := false }) }

/-! ### Counts (R6, R9, R11) -/

/-- LP, HWP, the excursion flag and the standstill timer after a count (R6, R9, R11). -/
def PositionCounter.count (p : PositionCounter) (d : Direction) (standstill : Byte) : PositionCounter :=
  match d with
  | .forward =>
    let lp := p.lp + 1
    let hwp := if p.lp = p.hwp then lp else p.hwp
    { p with lp := lp, hwp := hwp, excursion := p.excursion && lp ≠ hwp, standstillTimer := some standstill }
  | .backward => { p with lp := p.lp - 1, standstillTimer := some standstill }

/-- One count taken, its direction after inversion (R6 to R11). -/
def State.takeCount (s : State) (d : Direction) : State :=
  let s1 := { s with pos := s.pos.count d s.line.standstillTime }
  (State.runTasks s1.taskBound d s1).settleGaps

/-- An illegal transition (R5). -/
def State.illegalTransition (s : State) : State :=
  let count := saturatingSucc s.pos.errorCount
  ({ s with pos := { s.pos with errorCount := count } }.post 0 s.pos.lp (.encoderError count)).raiseHold causeEncoder

/-- The decoder compares the accepted levels with its reference, which they then become (R1 to R3, R5). -/
def State.decode (s : State) : State :=
  let a := s.pos.phaseA.accepted
  let b := s.pos.phaseB.accepted
  let r := decodePhases s.line.encoderMode s.pos.refA s.pos.refB a b
  let s1 := { s with pos := { s.pos with refA := a, refB := b } }
  match r with
  | .noCount => s1
  | .count d => s1.takeCount (invertDirection s.line.invert d)
  | .both =>
    let c := s1.chooseBool
    if c.1 then (c.2.takeCount .forward).takeCount .backward else (c.2.takeCount .backward).takeCount .forward
  | .illegal => s1.illegalTransition

/-! ### The encoder filters (R4) -/

/-- A phase after its raw level becomes `level`, under a filter setting (R4): accepted at once at setting 0; otherwise
a level away from the accepted one starts measuring, and a return discards the measurement. -/
def Phase.change (x : Phase) (level : Bool) (filter : BitVec 3) : Phase :=
  if x.raw = level then x
  else if filter = 0 then ⟨level, level, none⟩
  else if level = x.accepted then ⟨level, x.accepted, none⟩
  else ⟨level, x.accepted, some filter⟩

/-- A phase whose measurement finishes (R4): the new level is accepted. -/
def Phase.expire (x : Phase) : Phase :=
  match x.measuring with
  | some _ => ⟨x.raw, x.raw, none⟩
  | none => x

/-- A phase when a new filter setting is written (R14): a measurement in progress is discarded; with the raw level
away from the accepted one a new measurement starts, or at setting 0 the raw level is accepted at once. -/
def Phase.refilter (x : Phase) (filter : BitVec 3) : Phase :=
  if x.raw = x.accepted then ⟨x.raw, x.accepted, none⟩
  else if filter = 0 then ⟨x.raw, x.raw, none⟩
  else ⟨x.raw, x.accepted, some filter⟩

/-- Both phase filters replaced, and whatever they newly accept decoded as one transition (R4). -/
def State.setPhases (s : State) (a b : Phase) : State :=
  { s with pos := { s.pos with phaseA := a, phaseB := b } }.decode

/-- The raw levels of A and B become `a` and `b` (R4). The comparison that a CONFIG_LINE has left to the decoder comes
first (log 12). While RSTN is low nothing is accepted (R15). -/
def State.phaseChange (s : State) (a b : Bool) : State :=
  if s.rstn then
    let s1 := s.decode
    s1.setPhases (s1.pos.phaseA.change a s.line.encoderFilter) (s1.pos.phaseB.change b s.line.encoderFilter)
  else
    { s with pos := { s.pos with
      phaseA := { s.pos.phaseA with raw := a }, phaseB := { s.pos.phaseB with raw := b } } }

/-- The filters of the named phases finish their measurements at one moment (R4). A level that a CONFIG_LINE with filter 0
has accepted is decoded by this event, the end of a measurement without length, and first (log 12). -/
def State.phaseExpiry (s : State) (a b : Bool) : State :=
  let s1 := s.decode
  s1.setPhases (if a then s1.pos.phaseA.expire else s1.pos.phaseA) (if b then s1.pos.phaseB.expire else s1.pos.phaseB)

/-- The standstill timer runs out (R9): the line becomes STILL and LINE_STILL is posted. -/
def State.standstill (s : State) : State :=
  match s.pos.standstillTimer with
  | none => s
  | some _ =>
    { s with pos := { s.pos with motion := .still, standstillTimer := none } }.post 0 s.pos.lp .lineStill

end Sys2Proof.Machine
end

