-- ==== Sys2Proof/Machine/Sessions.lean ====
section
/-! DEFINITION. The Lease Table's arbiter (R166 to R170) and the end of a session (R161, R102, R155). -/
namespace Sys2Proof.Machine

/-! ### Grants (R167, R169) -/

/-- A request of a kind is compatible with the present holders (R167, R169): EXCLUSIVE with none, SHARED with no
exclusive holder. -/
def LeaseEntry.compatible (e : LeaseEntry) : LeaseKind → Bool
  | .exclusive => e.holders.isEmpty
  | .shared => e.holders.all (fun h => h.2 = .shared)

/-- A request is grantable at once (R167): compatible, and nobody waits. -/
def LeaseEntry.grantable (e : LeaseEntry) (k : LeaseKind) : Bool := e.waiters.isEmpty && e.compatible k

/-- A port stands among the holders or the waiters of an entry (R166). -/
def LeaseEntry.names (e : LeaseEntry) (p : Port) : Bool :=
  e.holders.any (fun h => h.1 = p) || e.waiters.any (fun h => h.1 = p)

/-- An entry without a port's holding and wait entry (R161 step 1, R168). -/
def LeaseEntry.without (e : LeaseEntry) (p : Port) : LeaseEntry :=
  ⟨e.holders.filter (fun h => h.1 ≠ p), e.waiters.filter (fun h => h.1 ≠ p)⟩

/-- The head of a wait list granted (R169, R170): it joins the holders with the kind it asked for, and LEASE_GRANTED
is posted to it. -/
def State.grantHead (s : State) (r : Fin 33) (h : Port × LeaseKind) (rest : List (Port × LeaseKind)) : State :=
  (s.updLease r (fun e => ⟨e.holders ++ [h], rest⟩)).offerTo h.1 0 s.pos.lp
    (.leaseGranted r h.2 ((s.lease r).holders.length + 1) rest.length)

/-- The wait list arbiter of a resource, over at most `k` entries, with the number of grants it makes (R169). -/
def State.arbitrate : Nat → Fin 33 → State → Nat × State
  | 0, _, s => (0, s)
  | k + 1, r, s =>
    match (s.lease r).waiters with
    | [] => (0, s)
    | h :: rest =>
      if (s.lease r).compatible h.2 then
        let t := State.arbitrate k r (s.grantHead r h rest)
        (t.1 + 1, t.2)
      else (0, s)

/-- The wait list arbiter of a resource (R169). -/
def State.runArbiter (s : State) (r : Fin 33) : Nat × State := State.arbitrate (s.lease r).waiters.length r s

/-! ### The end of a session (R161) -/

/-- The resources that a port holds. -/
def State.holdingsOf (s : State) (p : Port) : List (Fin 33) :=
  (List.finRange 33).filter (fun r => (s.lease r).holders.any (fun h => h.1 = p))

/-- The resources that a port waits for. -/
def State.waitsOf (s : State) (p : Port) : List (Fin 33) :=
  (List.finRange 33).filter (fun r => (s.lease r).waiters.any (fun h => h.1 = p))

/-- Step 1 of R161: every holding and wait entry of the port ends, then the arbiter runs on each resource it held or
waited for, in ascending order. -/
def State.endLeases (s : State) (p : Port) : State :=
  ((List.finRange 33).filter (fun r => (s.lease r).names p)).foldl (fun t r => (t.runArbiter r).2)
    { s with leases := s.leases.map (fun e => e.without p) }

/-- The bound actions whose poster is the port, channels in ascending number, each in schedule order (R102). -/
def State.postedBy (s : State) (p : Port) : List Handle :=
  (List.finRange 16).flatMap (fun c =>
    ((s.actionsOf (s.schedule c)).filter (fun a => a.poster = .station p)).map Action.handle)

/-- The orphan order (R102): under CANCEL the port's posted actions end CANCELLED, under KEEP their report port becomes
NONE. The actions are those bound when the order is handed over (log 29). -/
def State.orphanOrder (s : State) (p : Port) (policy : OrphanPolicy) : State :=
  match policy with
  | .cancel => (s.postedBy p).foldl (fun t h => t.endAction h .cancelled) s
  | .keep => (s.postedBy p).foldl (fun t h => t.updAction h (fun a => { a with report := none })) s

/-- The port leaves ATTACHED and its keepalive timer stops (R161); from here every notice for it is discarded. -/
def PortState.detach (ps : PortState) : PortState :=
  { ps with session := { ps.session with attached := false, timer := none } }

/-- Steps 5 and 6 of R161: the queue and the lost count are cleared, the slot is emptied, the options return to their
DETACHED values and the reason is stored; PORT_RESET also sets the next serial to 0 (R193). -/
def PortState.clearSession (ps : PortState) (reason : EndReason) : PortState :=
  { ps with
    session := .detached reason, queue := [], lost := 0, slot := none
    nextSerial := if reason = .portReset then 0 else ps.nextSerial }

/-- Steps 3 and 4 of R161 at the Hold Unit (R155): the port's own cause leaves the set, and an expiry raises
SESSION_LOST. R155 has the set not empty between the two, which it is when the port's own cause was the only one; the first
notice then carries the empty set, and HOLDN, read from the state that the whole event leaves, is not released between
(log 45). -/
def State.endHold (s : State) (p : Port) (reason : EndReason) : State :=
  let s1 := s.changeHold (s.hold &&& ~~~causePort p) .sessionEnd (some p)
  if reason = .expired then s1.raiseHold causeSessionLost else s1

/-- A session ended by DETACH, expiry or PORT_RESET (R161). -/
def State.endSession (s : State) (p : Port) (reason : EndReason) : State :=
  let policy := (s.port p).session.orphan
  let s1 := (s.updPort p PortState.detach).endLeases p
  ((s1.orphanOrder p policy).endHold p reason).updPort p (fun ps => ps.clearSession reason)

end Sys2Proof.Machine
end

