-- ==== Sys2Proof/Machine/Resets.lean ====
section
/-! DEFINITION. Device reset (R194) and power-on reset (R195, R200), block by block. -/
namespace Sys2Proof.Machine

/-! ### Device reset -/

/-- R16: a measurement in progress is discarded. With the raw level then away from the accepted one, whether the filter
begins to measure it again is open (log 13). -/
def State.resetPhase (s : State) (x : Phase) : Phase × State :=
  if x.raw = x.accepted then ({ x with measuring := none }, s)
  else
    let c := s.chooseBool
    (if c.1 then { x with measuring := some s.line.encoderFilter } else { x with measuring := none }, c.2)

/-- The Position Counter after a device reset (R16). -/
def State.resetPosition (s : State) : State :=
  let a := s.resetPhase s.pos.phaseA
  let b := a.2.resetPhase s.pos.phaseB
  { b.2 with pos :=
    { lp := 0, hwp := 0, motion := .still, standstillTimer := none, errorCount := 0, excursion := false,
      refA := s.pos.phaseA.accepted, refB := s.pos.phaseB.accepted, phaseA := a.1, phaseB := b.1 } }

/-- A detect input after a device reset (R31). -/
def Input.deviceReset (i : Input) : Input := if i.role = .off then i else i.load

/-- The Recipe Store after a device reset (R75). -/
def RecipeStore.deviceReset (r : RecipeStore) : RecipeStore :=
  { r with store := r.store.map (fun x => { x with refCount := 0 }), stage := [] }

/-- An output channel after a device reset (R148). -/
def Channel.deviceReset (ch : Channel) : Channel :=
  { ch with out := .off, onSet := [], waitSet := [], gapTimer := none, fireCount := 0, gapFresh := false }

/-- What a device reset taken on another port leaves of a transaction (R194): it is ended, and sends 0x00. Of a READ that
is being clocked out R184 says that it goes on sending its copy; which of the two holds is a free value (log 44). -/
def Transaction.cut : Transaction → Transaction
  | .reading status copy => if Config.readSurvivesReset then .reading status copy else .idle
  | _ => .idle

/-- A port after a device reset (R177, R194); `caller` keeps its own transaction, which is not 'on another port'
(log 31). A transaction that is ended leaves CSN as it is. The caller's waiting frames are discarded; whether one of another
port is, or is answered by the detached port, is a free value (log 46). -/
def PortState.deviceReset (ps : PortState) (caller : Bool) : PortState :=
  { session := .detached .deviceReset, csnLow := ps.csnLow,
    transaction := if caller then ps.transaction else ps.transaction.cut,
    waiting := if caller then [] else ps.waiting.filter (fun f => Config.frameOutlivesReset f.bytes)
    slot := none, queue := [], nextSerial := 0, lost := 0 }

/-- Device reset (R194), before the caller's reply. -/
def State.deviceReset (s : State) (p : Port) : State :=
  let s1 := s.resetPosition
  { s1 with
    inputs := s.inputs.map Input.deviceReset
    items := .reset
    recipes := s.recipes.deviceReset
    actions := .reset
    channels := s.channels.map Channel.deviceReset
    hold := causeReset
    leases := Vector.replicate 33 ⟨[], []⟩
    ports :=
      { a := s.ports.a.deviceReset (p = .A)
        b := s.ports.b.deviceReset (p = .B)
        c := s.ports.c.deviceReset (p = .C) } }

/-! ### Power-on reset -/

/-- The part in power-on reset, RSTN low (R15, R30, R56, R74, R104, R147, R158, R176, R195). The levels on its input
pins are the world's, and stay. -/
def State.powerOn (s : State) : State :=
  { s with
    rstn := false
    pos := .reset s.pos.phaseA.raw s.pos.phaseB.raw
    line := .reset
    inputs := s.inputs.map (fun i => .reset i.pin)
    items := .reset
    recipes := .reset
    actions := .reset
    channels := Vector.replicate 16 .reset
    hold := causeReset
    leases := Vector.replicate 33 ⟨[], []⟩
    ports := ⟨.reset s.ports.a.csnLow, .reset s.ports.b.csnLow, .reset s.ports.c.csnLow⟩ }

/-- RSTN low for `lowNs` nanoseconds (R200): shorter than 100 ns is filtered out, 1 µs or longer is a power-on reset,
and between those lengths it is either, whole (log 8). -/
def State.resetPulse (s : State) (lowNs : Nat) : State :=
  if lowNs < 100 then s
  else if 1000 ≤ lowNs then s.powerOn
  else
    let c := s.chooseBool
    if c.1 then c.2.powerOn else c.2

/-- RSTN rises (R15): the filters are idle, the accepted levels are those on A and B, and so is the reference. -/
def State.resetRise (s : State) : State :=
  if s.rstn then s
  else
    { s with
      rstn := true
      pos := { s.pos with
        refA := s.pos.phaseA.raw, refB := s.pos.phaseB.raw
        phaseA := .reset s.pos.phaseA.raw, phaseB := .reset s.pos.phaseB.raw } }

end Sys2Proof.Machine
end

