-- ==== Sys2Proof/Machine/Transactions.lean ====
section
/-! DEFINITION. The transactions of a host port (R178, R181, R184) and the frames that are no command (R180). -/
namespace Sys2Proof.Machine

/-- The mark that the READ in progress has copied this reply, written (R184, log 35). -/
def PortState.markCopied (ps : PortState) (b : Bool) : PortState :=
  { ps with slot := ps.slot.map (fun r => { r with copied := b }) }

/-- CSN falls (R178): the status byte is taken as it stands (R182). A port takes no transaction while RSTN is low
(R195). -/
def State.csnFalls (s : State) (p : Port) : State :=
  let ps := s.port p
  if ps.csnLow then s
  else if s.rstn then
    s.setPort p ({ ps with csnLow := true, transaction := .receiving (statusByte ps (s.hold != 0)) }.markCopied false)
  else s.setPort p { ps with csnLow := true }

/-- The copy that a READ takes (R184): the slot's reply, or NONE with the present status, code, sequence and length 0. -/
def PortState.slotCopy (ps : PortState) (holdSet : Bool) : List Byte :=
  match ps.slot with
  | some r => r.bytes
  | none => replyBytes (statusByte ps holdSet) 0 0 (resultCode .none) []

/-- The first byte of a transaction, 0x00, has ended: the port copies its reply slot (R184). -/
def State.copySlot (s : State) (p : Port) : State :=
  let ps := s.port p
  match ps.transaction with
  | .receiving status =>
    s.setPort p ({ ps with transaction := .reading status (ps.slotCopy (s.hold != 0)) }.markCopied true)
  | _ => s

/-- A reply read through its CRC (R184). -/
def PortState.markRead (ps : PortState) : PortState :=
  { ps with slot := ps.slot.map (fun r => { r with read := true }) }

/-- The slot still holds the reply that was copied (R184). -/
def PortState.holdsCopied (ps : PortState) : Bool :=
  match ps.slot with
  | some r => r.copied
  | none => false

/-- CSN rises: the transaction is over. -/
def PortState.csnRises (ps : PortState) : PortState := { ps with csnLow := false, transaction := .idle }

/-- CSN rises on a READ that clocked `clocked` bytes after its first (R184): the reply is marked read when the copy
was clocked out through its CRC and the slot still holds the reply that was copied. -/
def State.endRead (s : State) (p : Port) (clocked : Nat) : State :=
  let ps := s.port p
  match ps.transaction with
  | .reading _ copy =>
    let ps1 := if copy.length ≤ clocked && ps.holdsCopied then ps.markRead else ps
    s.setPort p (ps1.csnRises.markCopied false)
  | _ => if ps.csnLow then s.setPort p ps.csnRises else s

/-- CSN rises on a transaction that received `bytes` (R178, R181): with one whole byte or more, the first of them not
0x00, the frame waits to be taken. A transaction that the port ignores leaves no frame (R194, R195). -/
def State.endFrame (s : State) (p : Port) (bytes : List Byte) (partialByte : Bool) : State :=
  let ps := s.port p
  match ps.transaction with
  | .receiving _ =>
    if commandTransaction bytes then
      s.setPort p { ps.csnRises with waiting := ps.waiting ++ [⟨bytes, partialByte⟩] }
    else s.setPort p ps.csnRises
  | _ => if ps.csnLow then s.setPort p ps.csnRises else s

/-- The oldest waiting frame of the port answered FRAME_ERROR when it is malformed, UNKNOWN_COMMAND when its code names
no command (R180). The keepalive timer is not restarted (R164). -/
def State.takeBadFrame (s : State) (p : Port) : State :=
  match (s.port p).waiting with
  | [] => s
  | f :: rest =>
    let s1 := s.updPort p (fun ps => { ps with waiting := rest })
    match judgeFrame f with
    | .malformed reason =>
      s1.placeReply p (f.bytes.getD 0 0) (f.bytes.getD 1 0) .frameError
        (frameFaultCode reason :: be16 (receivedCount f))
    | .command code seq _ => if knownCodes.contains code then s else s1.placeReply p code seq .unknownCommand []

end Sys2Proof.Machine
end

