-- ==== Sys2Proof/Machine/PortCommands.lean ====
section
/-! DEFINITION. The commands of the session, the port and the Lease Table (spec 10, 11): ATTACH, DETACH, PORT_RESET,
STATUS, FETCH, ACK, LEASE, RELEASE, RESET_DEVICE, and the frames that are no command. -/
namespace Sys2Proof.Machine

/-! ### How a command's own rule is written -/

/-- Check 4 of R181: a parameter block that its reader refuses is answered BAD_PARAMETER. -/
def withBlock {α : Type} (s : State) (block : Option α) (k : α → Answer) : Answer :=
  match block with
  | none => refuse s .badParameter
  | some b => k b

/-- A later check: when it fails, the command is refused with its result (R181). -/
def require (s : State) (ok : Bool) (r : Result) (k : Answer) : Answer := if ok then k else refuse s r

/-- Taking a command (R181), when the oldest waiting frame of the port is a well-formed frame with the command's
code: the frame leaves the list; without a session a command other than ATTACH, STATUS and PORT_RESET is answered
NOT_ATTACHED (check 3); otherwise the keepalive timer restarts (R164) and the command's own rule answers, with its
checks from check 4 onward. The reply is placed within the same event, and an action whose condition is FALSE at its
posting ends SKIPPED after it (R83 steps 5 and 6). When the oldest waiting frame is another, or none waits, nothing is
taken (log 3). -/
def State.takeCommand (s : State) (p : Port) (name : CommandName) (needsSession : Bool)
    (body : State → List Byte → Answer) : State :=
  match (s.port p).waiting with
  | [] => s
  | f :: rest =>
    match judgeFrame f with
    | .malformed _ => s
    | .command code seq params =>
      if code = commandCode name then
        let s1 := s.updPort p (fun ps => { ps with waiting := rest })
        if needsSession && !(s1.port p).session.attached then s1.placeReply p code seq .notAttached []
        else
          let r := body (s1.updPort p PortState.restartKeepalive) params
          r.skipped.foldl (fun t h => t.endAction h .skipped) (r.state.placeReply p code seq r.result r.payload)
      else s

/-! ### Sessions (R160, R163, R193) -/

/-- The record of a port whose ATTACH is taken (R160). -/
def PortState.attach (ps : PortState) (b : AttachBlock) : PortState :=
  { ps with session :=
    { attached := true, keepalive := b.keepalive, orphan := b.orphan, classes := b.classes, attention := b.attention,
      timer := if b.keepalive = 0 then none else some b.keepalive, lastEnd := .none } }

/-- ATTACH (R160): ALREADY_ATTACHED comes before the parameter check. -/
def attachBody (p : Port) (s : State) (params : List Byte) : Answer :=
  let ps := s.port p
  require s (!ps.session.attached) .alreadyAttached <|
  withBlock s (readAttachBlock params) fun b =>
    ⟨s.setPort p (ps.attach b), .ok,
      [portCode p, s.line.ranks.get p, endReasonCode ps.session.lastEnd, ps.nextSerial], []⟩

/-- The number of the port's actions that a session end has to deal with: those bound when step 2 of R161 begins
(R163, log 23). -/
def State.orphanCount (s : State) (p : Port) : Nat := (((s.updPort p PortState.detach).endLeases p).postedBy p).length

/-- DETACH (R163). -/
def detachBody (p : Port) (s : State) (params : List Byte) : Answer :=
  withBlock s (readNothing params) fun _ =>
    ⟨s.endSession p .detach, .ok,
      natByte (s.holdingsOf p).length :: natByte (s.waitsOf p).length :: natHalf (s.orphanCount p), []⟩

/-- What PORT_RESET clears on a detached port (R193). -/
def PortState.resetDetached (ps : PortState) : PortState :=
  { ps with queue := [], lost := 0, slot := none, nextSerial := 0 }

/-- PORT_RESET (R193). -/
def portResetBody (p : Port) (s : State) (params : List Byte) : Answer :=
  withBlock s (readNothing params) fun _ =>
    let ended := (s.port p).session.attached
    let s1 := if ended then s.endSession p .portReset else s.updPort p PortState.resetDetached
    ⟨s1, .ok, [flagByte ended, endReasonCode (s1.port p).session.lastEnd], []⟩

/-- RESET_DEVICE (R194). -/
def resetDeviceBody (p : Port) (s : State) (params : List Byte) : Answer :=
  withBlock s (readNothing params) fun _ =>
  require s (s.holdsExclusive p resLine) .notLeased ⟨s.deviceReset p, .ok, [], []⟩

/-! ### STATUS (R192) -/

/-- A Stage Queue entry as STATUS carries it: recipe, trigger, point (R192). -/
def stageEntryBytes (e : StageEntry) : List Byte :=
  natByte e.recipe.val :: triggerCode e.trigger :: be32 (triggerPoint e.trigger)

/-- The payload of STATUS (R192; widths of R196, log 17, 32). -/
def State.statusPayload (s : State) (p : Port) : List Byte :=
  let ps := s.port p
  [portCode p, s.line.ranks.get p, flagByte ps.session.attached, endReasonCode ps.session.lastEnd, ps.nextSerial,
    natByte ps.queue.length] ++ be16 ps.lost ++
  be32 s.pos.lp ++ [motionCode s.pos.motion] ++ be16 s.hold ++
  natByte s.items.live.length :: be16 s.items.entryLost ++ natHalf s.actions.freeList.length ++
  [natByte s.recipes.current.val, natByte s.recipes.stage.length] ++ s.recipes.stage.flatMap stageEntryBytes ++
  be16 0x3160 ++ [1]

/-- STATUS (R192). -/
def statusBody (p : Port) (s : State) (params : List Byte) : Answer :=
  withBlock s (readNothing params) fun _ => ⟨s, .ok, s.statusPayload p, []⟩

/-! ### The notice queue (R188, R189) -/

/-- FETCH (R188). -/
def fetchBody (p : Port) (s : State) (params : List Byte) : Answer :=
  withBlock s (readNothing params) fun _ =>
    let ps := s.port p
    let records := ps.queue.take 7
    ⟨s, .ok, natByte ps.queue.length :: be16 ps.lost ++ natByte records.length :: records.flatMap noticeBytes, []⟩

/-- The notices that an ACK of a serial removes: the one that carries it and every one before it (R189); `none` when no
notice in the queue carries it. -/
def ackCount (queue : List Notice) (serial : Byte) : Option Nat :=
  (queue.findIdx? (fun n => n.serial = serial)).map (fun i => i + 1)

/-- The removal of an ACK, with the overflow step of R187. -/
def PortState.ack (ps : PortState) (lp : Position) (removed : Nat) : PortState :=
  let ps1 := { ps with queue := ps.queue.drop removed }
  if ps.lost = 0 then ps1 else { ps1.enqueue 0 lp (.overflow ps.lost) with lost := 0 }

/-- ACK (R189). -/
def ackBody (p : Port) (s : State) (params : List Byte) : Answer :=
  withBlock s (readSerialBlock params) fun serial =>
    let ps := s.port p
    match ackCount ps.queue serial with
    | none => refuse s .badSerial
    | some n =>
      let ps1 := ps.ack s.pos.lp n
      ⟨s.setPort p ps1, .ok,
        [natByte n, natByte ps1.queue.length, flagByte (ps.lost != 0), if ps.lost = 0 then 0 else ps.nextSerial], []⟩

/-! ### Leases (R167, R168) -/

/-- The kind of lease that the holders of an entry hold; with no holder, the kind asked for (log 20). -/
def LeaseEntry.heldKind (e : LeaseEntry) (asked : LeaseKind) : LeaseKind :=
  match e.holders with
  | [] => asked
  | h :: _ => h.2

/-- The payload of LEASE: resource, kind asked, number of holders, the kind they hold, and the place of a waiter
(R167). -/
def leasePayload (e : LeaseEntry) (b : LeaseBlock) (place : List Byte) : List Byte :=
  [natByte b.resource.val, leaseKindCode b.kind, natByte e.holders.length, leaseKindCode (e.heldKind b.kind)] ++ place

/-- LEASE (R167). ALREADY carries no payload: what R170 has seen in that reply is the result itself (log 49). -/
def leaseBody (p : Port) (s : State) (params : List Byte) : Answer :=
  withBlock s (readLeaseBlock params) fun b =>
  let e := s.lease b.resource
  require s (!e.names p) .already <|
    if e.grantable b.kind then
      let s1 := s.updLease b.resource (fun e => { e with holders := e.holders ++ [(p, b.kind)] })
      ⟨s1, .ok, leasePayload (s1.lease b.resource) b [], []⟩
    else if b.wait then
      ⟨s.updLease b.resource (fun e => { e with waiters := e.waiters ++ [(p, b.kind)] }), .waiting,
        leasePayload e b [natByte (e.waiters.length + 1)], []⟩
    else ⟨s, .held, leasePayload e b [], []⟩

/-- RELEASE (R168): the caller's holding or wait entry ends, and the arbiter runs. -/
def releaseBody (p : Port) (s : State) (params : List Byte) : Answer :=
  withBlock s (readOneIndex 33 params) fun r =>
  require s ((s.lease r).names p) .notLeased <|
    let t := (s.updLease r (fun e => e.without p)).runArbiter r
    ⟨t.2, .ok, [natByte r.val, flagByte (!s.holdsAny p r), natByte t.1], []⟩

/-! ### The meanings -/

/-- ATTACH (R160). -/
def execAttach (p : Port) (s : State) : Host.Outcome State Fault Refusal :=
  .next (s.takeCommand p .attach false (attachBody p))

/-- DETACH (R163). -/
def execDetach (p : Port) (s : State) : Host.Outcome State Fault Refusal :=
  .next (s.takeCommand p .detach true (detachBody p))

/-- PORT_RESET (R193). -/
def execPortReset (p : Port) (s : State) : Host.Outcome State Fault Refusal :=
  .next (s.takeCommand p .portReset false (portResetBody p))

/-- STATUS (R192). -/
def execStatus (p : Port) (s : State) : Host.Outcome State Fault Refusal :=
  .next (s.takeCommand p .status false (statusBody p))

/-- FETCH (R188). -/
def execFetch (p : Port) (s : State) : Host.Outcome State Fault Refusal :=
  .next (s.takeCommand p .fetch true (fetchBody p))

/-- ACK (R189). -/
def execAck (p : Port) (s : State) : Host.Outcome State Fault Refusal :=
  .next (s.takeCommand p .ack true (ackBody p))

/-- LEASE (R167). -/
def execLease (p : Port) (s : State) : Host.Outcome State Fault Refusal :=
  .next (s.takeCommand p .lease true (leaseBody p))

/-- RELEASE (R168). -/
def execRelease (p : Port) (s : State) : Host.Outcome State Fault Refusal :=
  .next (s.takeCommand p .release true (releaseBody p))

/-- RESET_DEVICE (R194). -/
def execResetDevice (p : Port) (s : State) : Host.Outcome State Fault Refusal :=
  .next (s.takeCommand p .resetDevice true (resetDeviceBody p))

/-- UNKNOWN_COMMAND, and FRAME_ERROR within it (R180). -/
def execUnknownCommand (p : Port) (s : State) : Host.Outcome State Fault Refusal := .next (s.takeBadFrame p)

end Sys2Proof.Machine
end

