-- ==== Sys2Proof/Machine/ConfigCommands.lean ====
section
/-! DEFINITION. The commands that configure the part or act on the whole line: CONFIG_LINE, CONFIG_INPUT,
CONFIG_CHANNEL, SET_HOLD, RELEASE_HOLD, READ_POSITION, SET_POSITION. -/
namespace Sys2Proof.Machine

/-! ### CONFIG_LINE (R173, R174, R14) -/

/-- What an exit distance offends: an offset of a recipe or of an input (R173). -/
structure OrderOffence where
  offset : Nat
  byInput : Bool
  index : Nat

/-- The offsets of a valid recipe that reach an exit distance: voters A, B, C, then templates (R173 check 4). -/
def recipeOffences (exit : Nat) (i : Fin 8) (r : Recipe) : List OrderOffence :=
  if r.valid then
    (((ports3.filter r.body.voter.get).map (fun p => (r.body.decision.get p).toNat) ++
      r.body.templates.map (fun t => t.fire.toNat)).filter (fun x => exit ≤ x)).map (fun x => ⟨x, false, i.val⟩)
  else []

/-- The N + W of a CHECKPOINT input that reaches an exit distance (R173 check 4). -/
def inputOffences (exit : Nat) (k : Fin 8) (i : Input) : List OrderOffence :=
  if i.role = .checkpoint && exit ≤ missOffset i then [⟨missOffset i, true, k.val⟩] else []

/-- Everything that offends an exit distance. Which of them is 'found' first is open (log 24). -/
def State.orderOffences (s : State) (exit : Nat) : List OrderOffence :=
  (List.finRange 8).flatMap (fun i => recipeOffences exit i (s.recipe i)) ++
    (List.finRange 8).flatMap (fun k => inputOffences exit k (s.input k))

/-- The payload of ORDER: the offset, whether a recipe or an input, and its index (R173). -/
def offencePayload (o : OrderOffence) : List Byte :=
  be24 (BitVec.ofNat 24 o.offset) ++ [flagByte o.byInput, natByte o.index]

/-- The 23 bytes of CONFIG_LINE's parameter block for a line configuration (spec 12, 'Parameter blocks'). -/
def lineBytes (c : LineConfig) : List Byte :=
  [encoderModeCode c.encoderMode, flagByte c.invert, c.encoderFilter.setWidth 8] ++
  be32 (c.exitDistance.setWidth 32) ++ be32 (c.entryBlanking.setWidth 32) ++ be32 (c.jamLength.setWidth 32) ++
  be16 c.reverseAllowance ++ [c.standstillTime, c.ranks.a, c.ranks.b, c.ranks.c] ++ be16 c.holdMask

/-- The OK payload of CONFIG_LINE: the configuration as stored (R174), its fields in the order of the block at the widths of
R196, a distance in 3 bytes and a length in 4 (log 43). -/
def linePayload (c : LineConfig) : List Byte :=
  [encoderModeCode c.encoderMode, flagByte c.invert, c.encoderFilter.setWidth 8] ++
  be24 c.exitDistance ++ be24 c.entryBlanking ++ be32 (c.jamLength.setWidth 32) ++
  be16 c.reverseAllowance ++ [c.standstillTime, c.ranks.a, c.ranks.b, c.ranks.c] ++ be16 c.holdMask

/-- The decoder reference loaded with the accepted levels (R14). -/
def State.loadReference (s : State) : State :=
  { s with pos := { s.pos with refA := s.pos.phaseA.accepted, refB := s.pos.phaseB.accepted } }

/-- Both filters under a new setting (R14). What they accept is not decoded here: R14 and R174 have the command produce no
count, change no error count and post nothing, so the decoder makes its comparison in the encoder event that follows
(log 12). -/
def State.refilterPhases (s : State) (filter : BitVec 3) : State :=
  { s with pos := { s.pos with
    phaseA := s.pos.phaseA.refilter filter, phaseB := s.pos.phaseB.refilter filter } }

/-- The line configuration written whole (R174), with its effects on the Position Counter (R14): a new encoder mode
loads the decoder reference; a new filter setting restarts the filters, and setting 0 accepts a raw level at once. With
both in one command the order is open: the reference is loaded before or after that acceptance (log 12). -/
def State.writeLine (s : State) (c : LineConfig) : State :=
  let written := { s with line := c }
  if s.line.encoderMode = c.encoderMode then
    if s.line.encoderFilter = c.encoderFilter then written else written.refilterPhases c.encoderFilter
  else if s.line.encoderFilter = c.encoderFilter then written.loadReference
  else
    let r := s.chooseBool
    let t := { r.2 with line := c }
    if r.1 then t.loadReference.refilterPhases c.encoderFilter else (t.refilterPhases c.encoderFilter).loadReference

/-- CONFIG_LINE (R173, R174). -/
def configLineBody (p : Port) (s : State) (params : List Byte) : Answer :=
  withBlock s (readLineBlock params) fun c =>
  require s (s.holdsExclusive p resLine) .notLeased <|
  require s s.items.live.isEmpty .notEmpty <|
    let offences := s.orderOffences c.exitDistance.toNat
    let found := s.choose offences.length
    match offences[found.1]? with
    | some o => ⟨found.2, .order, offencePayload o, []⟩
    | none => ⟨s.writeLine c, .ok, linePayload c, []⟩

/-! ### CONFIG_INPUT (R27, R28) -/

/-- Another input holds the ENTRY role (R26). -/
def State.entryElsewhere (s : State) (k : Fin 8) : Bool :=
  (List.finRange 8).any (fun j => j ≠ k && (s.input j).role = .entry)

/-- A role whose change needs an empty Item Table (R27 check 4). -/
def tableRole (r : Role) : Bool := r = .entry || r = .checkpoint

/-- The configuration of an input written whole (R27). -/
def Input.configure (i : Input) (b : InputBlock) : Input :=
  { i with role := b.role, active := b.active, filter := b.filter, nominal := b.nominal, window := b.window,
           onMiss := b.onMiss }

/-- The input as its change to OFF leaves it (R28). -/
def Input.turnOff (i : Input) : Input := { i with accepted := false, measurement := none, suppress := false }

/-- The effect of a written configuration on the input's running state, by the first row of R28 that applies
(log 33); `old` is the input before the command. -/
def State.rerunInput (s : State) (k : Fin 8) (old : Input) : State :=
  let i := s.input k
  if i.role = .off then (if old.role = .off then s else s.updInput k Input.turnOff)
  else if i.role ≠ old.role ∨ i.active ≠ old.active then (s.findPin k).loadInput k old
  else if i.filter = old.filter then s
  else
    match i.measurement with
    | none => s
    | some m =>
      if i.filter = 0 then s.takeEdge k m.captured
      else s.updInput k (fun x => { x with measurement := some ⟨m.captured, i.filter⟩ })

/-- An input configured (R27, R28). -/
def State.writeInput (s : State) (b : InputBlock) : State :=
  (s.updInput b.input (fun i => i.configure b)).rerunInput b.input (s.input b.input)

/-- CONFIG_INPUT (R27). -/
def configInputBody (p : Port) (s : State) (params : List Byte) : Answer :=
  withBlock s (readInputBlock params) fun b =>
  require s (s.holdsExclusive p (resInput b.input)) .notLeased <|
  require s (!(b.role = .entry && s.entryElsewhere b.input)) .entryTaken <|
  require s (s.items.live.isEmpty || !(tableRole (s.input b.input).role || tableRole b.role)) .notEmpty <|
  require s (b.role ≠ .checkpoint || b.nominal.toNat + b.window.toNat < s.line.exitDistance.toNat) .order <|
    let s1 := s.writeInput b
    ⟨s1, .ok, [natByte b.input.val, Config.levelCode (s1.input b.input).accepted], []⟩

/-! ### CONFIG_CHANNEL (R144, R145) -/

/-- The number of FIRING actions on a channel (R144). -/
def State.firingOn (s : State) (c : Fin 16) : Nat := ((s.actionsOf (s.schedule c)).filter Action.firing).length

/-- The configuration of a channel written whole (R145). -/
def Channel.configure (ch : Channel) (b : ChannelBlock) : Channel :=
  { ch with polarity := b.polarity, minGap := b.minGap, policy := b.policy, span := b.span }

/-- CONFIG_CHANNEL (R144; the width of the BUSY count is log 25). -/
def configChannelBody (p : Port) (s : State) (params : List Byte) : Answer :=
  withBlock s (readChannelBlock params) fun b =>
  require s (s.holdsExclusive p (resChannel b.channel)) .notLeased <|
    if s.firingOn b.channel = 0 then
      ⟨s.updChannel b.channel (fun ch => ch.configure b), .ok,
        natByte b.channel.val :: outStateCode (s.channel b.channel).out :: be32 (s.channel b.channel).fireCount, []⟩
    else ⟨s, .busy, natHalf (s.firingOn b.channel), []⟩

/-! ### The Hold Unit (R152, R153) -/

/-- SET_HOLD (R152). -/
def setHoldBody (p : Port) (s : State) (params : List Byte) : Answer :=
  withBlock s (readNothing params) fun _ =>
    let s1 := s.changeHold (s.hold ||| causePort p) .set (some p)
    ⟨s1, .ok, be16 s1.hold, []⟩

/-- RELEASE_HOLD (R153). -/
def releaseHoldBody (p : Port) (s : State) (params : List Byte) : Answer :=
  withBlock s (readHoldBlock params) fun mask =>
  require s (mask &&& ~~~causePort p = 0 || s.holdsExclusive p resLine) .notLeased <|
    let s1 := s.changeHold (s.hold &&& ~~~mask) .released (some p)
    ⟨s1, .ok, be16 s.hold ++ be16 s1.hold ++ be16 (s.hold &&& mask), []⟩

/-! ### The line position (R12, R13) -/

/-- READ_POSITION (R13; layout of R198). -/
def readPositionBody (s : State) (params : List Byte) : Answer :=
  withBlock s (readNothing params) fun _ =>
    ⟨s, .ok, be32 s.pos.lp ++ be32 s.pos.hwp ++ [motionCode s.pos.motion, flagByte s.pos.excursion] ++
      be16 s.pos.errorCount, []⟩

/-- A measurement whose captured position moves with LP (R12). -/
def Input.shiftCapture (i : Input) (d : Position) : Input :=
  { i with measurement := i.measurement.map (fun m => { m with captured := m.captured + d }) }

/-- LP and HWP set (R12). -/
def State.presetPosition (s : State) (v : Position) : State :=
  { s with
    pos := { s.pos with lp := v, hwp := v, excursion := false }
    inputs := s.inputs.map (fun i => i.shiftCapture (v - s.pos.lp)) }

/-- A Stage Queue entry has trigger AT_POSITION (R12). -/
def State.positionStaged (s : State) : Bool := s.recipes.stage.any (fun e => e.trigger ≠ .nextEntry)

/-- SET_POSITION (R12). -/
def setPositionBody (p : Port) (s : State) (params : List Byte) : Answer :=
  withBlock s (readPositionBlock params) fun v =>
  require s (s.holdsExclusive p resLine) .notLeased <|
  require s (s.pos.motion = .still) .notStill <|
  require s (s.items.live.isEmpty && !s.positionStaged) .notEmpty
    ⟨s.presetPosition v, .ok, be32 s.pos.lp ++ be32 v, []⟩

/-! ### The meanings -/

/-- CONFIG_LINE (R173). -/
def execConfigLine (p : Port) (s : State) : Host.Outcome State Fault Refusal :=
  .next (s.takeCommand p .configLine true (configLineBody p))

/-- CONFIG_INPUT (R27). -/
def execConfigInput (p : Port) (s : State) : Host.Outcome State Fault Refusal :=
  .next (s.takeCommand p .configInput true (configInputBody p))

/-- CONFIG_CHANNEL (R144). -/
def execConfigChannel (p : Port) (s : State) : Host.Outcome State Fault Refusal :=
  .next (s.takeCommand p .configChannel true (configChannelBody p))

/-- SET_HOLD (R152). -/
def execSetHold (p : Port) (s : State) : Host.Outcome State Fault Refusal :=
  .next (s.takeCommand p .setHold true (setHoldBody p))

/-- RELEASE_HOLD (R153). -/
def execReleaseHold (p : Port) (s : State) : Host.Outcome State Fault Refusal :=
  .next (s.takeCommand p .releaseHold true (releaseHoldBody p))

/-- READ_POSITION (R13). -/
def execReadPosition (p : Port) (s : State) : Host.Outcome State Fault Refusal :=
  .next (s.takeCommand p .readPosition true readPositionBody)

/-- SET_POSITION (R12). -/
def execSetPosition (p : Port) (s : State) : Host.Outcome State Fault Refusal :=
  .next (s.takeCommand p .setPosition true (setPositionBody p))

end Sys2Proof.Machine
end

