-- ==== Sys2Proof/Machine/RecipeCommands.lean ====
section
/-! DEFINITION. The commands of the Recipe Store (spec 04): WRITE_RECIPE, ERASE_RECIPE, READ_RECIPE, STAGE_RECIPE,
CANCEL_STAGE. -/
namespace Sys2Proof.Machine

/-! ### WRITE_RECIPE and ERASE_RECIPE (R61 to R64) -/

/-- Check 4 of R61: each voter's decision offset and each fire offset is less than the exit distance. -/
def withinExit (exit : Nat) (b : RecipeBody) : Bool :=
  ports3.all (fun p => !b.voter.get p || (b.decision.get p).toNat < exit) &&
    b.templates.all (fun t => t.fire.toNat < exit)

/-- WRITE_RECIPE (R61, R63). -/
def writeRecipeBody (p : Port) (s : State) (params : List Byte) : Answer :=
  withBlock s (readRecipeBlock params) fun b =>
  require s (s.holdsExclusive p (resRecipe b.index)) .notLeased <|
  require s ((s.recipe b.index).refCount = 0) .inUse <|
  require s (withinExit s.line.exitDistance.toNat b.body) .badParameter <|
  require s (b.body.templates.all (fun t => namesVoter b.body t.condition)) .notVoter <|
  require s (b.body.templates.all (fun t => afterDecisions b.body t.fire t.condition)) .order
    ⟨s.updRecipe b.index (fun r => { r with valid := true, body := b.body }), .ok,
      [natByte b.index.val, natByte b.body.templates.length, flagByte (s.recipe b.index).valid], []⟩

/-- A Stage Queue entry names the recipe. -/
def State.stagedCount (s : State) (i : Fin 8) : Nat := (s.recipes.stage.filter (fun e => e.recipe = i)).length

/-- Check 3 of R64: the recipe is current, staged, or used by a live item. -/
def State.recipeInUse (s : State) (i : Fin 8) : Bool :=
  s.recipes.current = i || s.stagedCount i ≠ 0 || (s.recipe i).refCount ≠ 0

/-- ERASE_RECIPE (R64): recipe 0 is refused at check 1. -/
def eraseRecipeBody (p : Port) (s : State) (params : List Byte) : Answer :=
  withBlock s ((readOneIndex 8 params).filter (fun i => i ≠ 0)) fun i =>
  require s (s.holdsExclusive p (resRecipe i)) .notLeased <|
  require s (!s.recipeInUse i) .inUse
    ⟨s.updRecipe i (fun r => { r with valid := false, body := .empty }), .ok,
      [natByte i.val, flagByte (s.recipe i).valid], []⟩

/-! ### READ_RECIPE (R65) -/

/-- The port bits of a template's condition byte: the condition's port, or, for a kind that names none, bits that no
rule gives (log 19). -/
def conditionPortBits (free : Nat) (c : Condition) : Byte × Nat :=
  match conditionPort c with
  | some p => (portCode p, free)
  | none => ((Config.ignoredPortBits free).setWidth 8, free + 1)

/-- A template in its 12 bytes (spec 12), with the open choices taken so far. -/
def templateBytes (free : Nat) (t : Template) : List Byte × Nat :=
  let bits := conditionPortBits free t.condition
  (natByte t.channel.val :: be24 t.fire ++ widthKindCode t.width :: be24 (widthValue t.width) ++
    (conditionKindCode t.condition ||| (bits.1 <<< 4)) :: portOrNoneCode t.report :: be16 t.tag, bits.2)

/-- The templates of a body in their bytes. -/
def templatesBytes (free : Nat) : List Template → List Byte × Nat
  | [] => ([], free)
  | t :: ts =>
    let x := templateBytes free t
    let y := templatesBytes x.2 ts
    (x.1 ++ y.1, y.2)

/-- The 22 bytes of a body before its templates, in the layout of WRITE_RECIPE (spec 12). -/
def bodyBytes (i : Fin 8) (b : RecipeBody) : List Byte :=
  natByte i.val :: natByte b.templates.length :: be24 b.lengthMin ++ be24 b.lengthMax ++
    lengthPolicyCode b.policy :: voterSetByte b.voter ::
    be24 b.decision.a ++ voterDefaultCode b.default_.a :: be24 b.decision.b ++ voterDefaultCode b.default_.b ::
    be24 b.decision.c ++ [voterDefaultCode b.default_.c]

/-- READ_RECIPE (R65). -/
def readRecipeBody (s : State) (params : List Byte) : Answer :=
  withBlock s (readOneIndex 8 params) fun i =>
    let r := s.recipe i
    let t := templatesBytes s.free r.body.templates
    ⟨{ s with free := t.2 }, .ok,
      [flagByte r.valid, natByte r.refCount, flagByte (s.recipes.current = i), natByte (s.stagedCount i)] ++
        bodyBytes i r.body ++ t.1, []⟩

/-! ### STAGE_RECIPE and CANCEL_STAGE (R68, R72) -/

/-- Check 5 of R68: an AT_POSITION point is ahead of LP. -/
def triggerAhead (lp : Position) : Trigger → Bool
  | .nextEntry => true
  | .atPosition p => isAhead lp p

/-- The Stage Queue replaced. -/
def State.setStage (s : State) (q : List StageEntry) : State := { s with recipes := { s.recipes with stage := q } }

/-- STAGE_RECIPE (R68). -/
def stageRecipeBody (p : Port) (s : State) (params : List Byte) : Answer :=
  withBlock s (readStageBlock params) fun b =>
  require s (s.holdsExclusive p resLine) .notLeased <|
  require s (s.recipe b.index).valid .invalidRecipe <|
  require s (s.recipes.stage.length < 2) .stageFull <|
  require s (triggerAhead s.pos.lp b.trigger) .past <|
    let depth := natByte (s.recipes.stage.length + 1)
    ⟨s.setStage (s.recipes.stage ++ [⟨b.index, b.trigger⟩]), .ok, [depth, depth], []⟩

/-- The recipe and trigger of a removed entry (R72). -/
def cancelledBytes (e : StageEntry) : List Byte := [natByte e.recipe.val, triggerCode e.trigger]

/-- CANCEL_STAGE (R72): NEWEST removes the tail entry, ALL every entry. The order in which the reply gives two removed
entries is open (log 34). -/
def cancelStageBody (p : Port) (s : State) (params : List Byte) : Answer :=
  withBlock s (readScopeBlock params) fun all =>
  require s (s.holdsExclusive p resLine) .notLeased <|
  require s (!s.recipes.stage.isEmpty) .notStaged <|
    let kept := if all then [] else s.recipes.stage.dropLast
    let removed := s.recipes.stage.drop kept.length
    let c := s.choose removed.length
    let shown := if c.1 = 0 then removed else removed.reverse
    ⟨c.2.setStage kept, .ok, [natByte removed.length, natByte kept.length] ++ shown.flatMap cancelledBytes, []⟩

/-! ### The meanings -/

/-- WRITE_RECIPE (R61). -/
def execWriteRecipe (p : Port) (s : State) : Host.Outcome State Fault Refusal :=
  .next (s.takeCommand p .writeRecipe true (writeRecipeBody p))

/-- ERASE_RECIPE (R64). -/
def execEraseRecipe (p : Port) (s : State) : Host.Outcome State Fault Refusal :=
  .next (s.takeCommand p .eraseRecipe true (eraseRecipeBody p))

/-- READ_RECIPE (R65). -/
def execReadRecipe (p : Port) (s : State) : Host.Outcome State Fault Refusal :=
  .next (s.takeCommand p .readRecipe true readRecipeBody)

/-- STAGE_RECIPE (R68). -/
def execStageRecipe (p : Port) (s : State) : Host.Outcome State Fault Refusal :=
  .next (s.takeCommand p .stageRecipe true (stageRecipeBody p))

/-- CANCEL_STAGE (R72). -/
def execCancelStage (p : Port) (s : State) : Host.Outcome State Fault Refusal :=
  .next (s.takeCommand p .cancelStage true (cancelStageBody p))

end Sys2Proof.Machine
end

