-- ==== Sys2Proof/Machine/ActionCommands.lean ====
section
/-! DEFINITION. The commands of the Action Store (spec 05): POST_ACTION, CANCEL_ACTION, CLEAR_CHANNEL, READ_CHANNEL. -/
namespace Sys2Proof.Machine

/-! ### POST_ACTION (R81 to R83) -/

/-- The lease of a channel that POST_ACTION and CLEAR_CHANNEL need (R171): any kind; otherwise LEASED_ELSEWHERE when
another port holds the channel exclusive, and NOT_LEASED when none does. -/
def requireChannel (s : State) (p : Port) (c : Fin 16) (k : Answer) : Answer :=
  if s.holdsAny p (resChannel c) then k
  else if s.heldExclusiveByOther p (resChannel c) then refuse s .leasedElsewhere
  else refuse s .notLeased

/-- The request of a posted action: poster and report port are the caller (R83). -/
def postRequest (p : Port) (b : PostBlock) (c : CondState) : BindRequest :=
  { item := b.item, channel := b.channel, poster := .station p, report := some p, fire := b.fire, width := b.width,
    condition := b.condition, condState := c, tag := b.tag }

/-- The post taken (R83): the displacement, the binding, the reply, and after it the ending SKIPPED of an action whose
condition is FALSE. -/
def State.takePost (s : State) (p : Port) (b : PostBlock) (c : CondState) (point : Position)
    (displaced : List Handle) : Answer :=
  match (s.displace displaced).bindAction (postRequest p b c) with
  | none => refuse s .noSpace
  | some (h, s1) =>
    ⟨s1, .ok, be16 h ++ condStateCode c :: be32 point ++ [natByte displaced.length], if c = .fails then [h] else []⟩

/-- Checks 9 of R82 and the taking of R83; the conflict check is not made when the condition is FALSE at posting. -/
def State.conflictOrPost (s : State) (p : Port) (b : PostBlock) (c : CondState) (point : Position) : Answer :=
  if c = .fails then s.takePost p b c point []
  else
    match s.conflictCheck b.channel (.station p) point b.width with
    | .overlap first => ⟨s, .overlap, be16 first.handle ++ [flagByte first.firing], []⟩
    | .accepted displaced => s.takePost p b c point displaced

/-- Checks 3 to 8 of R82, for the item found. -/
def State.postOn (s : State) (p : Port) (b : PostBlock) (it : Item) : Answer :=
  let body := s.bodyOf it
  let point := plusCounts it.base b.fire.toNat
  require s (b.fire.toNat < s.line.exitDistance.toNat) .badParameter <|
  require s (isAhead s.pos.lp point) .past <|
  require s (namesVoter body b.condition) .notVoter <|
  require s (afterDecisions body b.fire b.condition) .order <|
  require s (it.actions.length < 16) .itemLimit <|
  require s (!s.actions.freeList.isEmpty) .noSpace <|
    s.conflictOrPost p b (decideCondition it.slots b.condition) point

/-- The live item with a number, unless it is LEAVING (R82 check 2). -/
def State.postable (s : State) (n : Half) : Option Item := (s.item? n).filter (fun it => it.state ≠ .leaving)

/-- POST_ACTION (R82). -/
def postActionBody (p : Port) (s : State) (params : List Byte) : Answer :=
  withBlock s (readPostBlock params) fun b =>
  requireChannel s p b.channel <|
    match s.postable b.item with
    | none => refuse s .noItem
    | some it => s.postOn p b it

/-! ### CANCEL_ACTION and CLEAR_CHANNEL (R97, R98) -/

/-- CANCEL_ACTION (R98). -/
def cancelActionBody (p : Port) (s : State) (params : List Byte) : Answer :=
  withBlock s (readHandleBlock params) fun h =>
    match s.action? h with
    | none => refuse s .noAction
    | some a =>
      require s (a.poster = .station p || s.holdsExclusive p (resChannel a.channel)) .notOwner
        ⟨s.endAction h .cancelled, .ok, be16 h ++ be16 a.item ++ [flagByte a.firing], []⟩

/-- The FIRING LATCH actions of a channel, in schedule order (R97). -/
def State.latchesOn (s : State) (c : Fin 16) : List Handle :=
  ((s.actionsOf (s.schedule c)).filter (fun a => a.firing && a.width = .latch)).map Action.handle

/-- CLEAR_CHANNEL (R97). -/
def clearChannelBody (p : Port) (s : State) (params : List Byte) : Answer :=
  withBlock s (readOneIndex 16 params) fun c =>
  requireChannel s p c
    ⟨(s.latchesOn c).foldl (fun t h => t.endAction h .done) s, .ok, natHalf (s.latchesOn c).length, []⟩

/-! ### READ_CHANNEL (R103) -/

/-- The fire point given for an entry: the hand-over point of a FIRING action (R103). -/
def State.shownFirePoint (s : State) (a : Action) : Position :=
  if a.firing then a.handOver.getD (s.firePoint a) else s.firePoint a

/-- An entry of READ_CHANNEL (R198). -/
def State.channelEntryBytes (s : State) (a : Action) : List Byte :=
  be16 a.handle ++ be16 a.item ++
    [posterCode a.poster, actionStateCode a.state, condStateCode a.condState,
      natByte ((if a.late then 1 else 0) + (if a.delayed then 2 else 0))] ++ be32 (s.shownFirePoint a)

/-- READ_CHANNEL (R103; layout of R198). -/
def readChannelBody (s : State) (params : List Byte) : Answer :=
  withBlock s (readOneIndex 16 params) fun c =>
    let ch := s.channel c
    let shown := (s.actionsOf (s.schedule c)).take 8
    ⟨s, .ok, outStateCode ch.out :: be32 ch.fireCount ++ policyCode ch.policy :: natHalf (s.schedule c).length ++
      natByte shown.length :: shown.flatMap s.channelEntryBytes, []⟩

/-! ### The meanings -/

/-- POST_ACTION (R82). -/
def execPostAction (p : Port) (s : State) : Host.Outcome State Fault Refusal :=
  .next (s.takeCommand p .postAction true (postActionBody p))

/-- CANCEL_ACTION (R98). -/
def execCancelAction (p : Port) (s : State) : Host.Outcome State Fault Refusal :=
  .next (s.takeCommand p .cancelAction true (cancelActionBody p))

/-- CLEAR_CHANNEL (R97). -/
def execClearChannel (p : Port) (s : State) : Host.Outcome State Fault Refusal :=
  .next (s.takeCommand p .clearChannel true (clearChannelBody p))

/-- READ_CHANNEL (R103). -/
def execReadChannel (p : Port) (s : State) : Host.Outcome State Fault Refusal :=
  .next (s.takeCommand p .readChannel true readChannelBody)

end Sys2Proof.Machine
end

