-- ==== Sys2Proof/Machine/ItemCommands.lean ====
section
/-! DEFINITION. The commands on items and verdict slots (spec 03, 06): VERDICT, READ_ITEM, LIST_ITEMS, REMOVE_ITEM,
PURGE_LINE. -/
namespace Sys2Proof.Machine

/-! ### VERDICT (R107 to R109) -/

/-- The decision point of a port of an item, from its present base (R106); so too for a CLOSED slot, whose point LATE
carries (log 42). -/
def State.decisionPointOf (s : State) (it : Item) (p : Port) : Position :=
  plusCounts it.base ((s.bodyOf it).decision.get p).toNat

/-- A verdict and its code in two bytes. -/
def verdictBytes (v : Verdict) (code : BitVec 6) : List Byte := [verdictCode v, code.setWidth 8]

/-- A VERDICT that meets an OPEN slot (R108). -/
def State.storeVerdict (s : State) (p : Port) (b : VerdictBlock) (it : Item)
    (pending : Option (Verdict × BitVec 6)) : Answer :=
  let tail := be32 (s.decisionPointOf it p) ++ be32 s.pos.lp
  let s1 := s.updItem b.item (fun x => { x with slots := x.slots.set p (.opened (some (b.verdict, b.code))) })
  match pending with
  | none => ⟨s1, .ok, be16 b.item ++ verdictBytes b.verdict b.code ++ tail, []⟩
  | some old => ⟨s1, .replaced, be16 b.item ++ verdictBytes b.verdict b.code ++ verdictBytes old.1 old.2 ++ tail, []⟩

/-- VERDICT (R107). LATE carries the slot in its 2 bytes of R198 (R109; log 41). -/
def verdictBody (p : Port) (s : State) (params : List Byte) : Answer :=
  withBlock s (readVerdictBlock params) fun b =>
    match s.item? b.item with
    | none => refuse s .noItem
    | some it =>
      match it.slots.get p with
      | .absent => refuse s .notVoter
      | .opened pending => s.storeVerdict p b it pending
      | .closed v code src =>
        ⟨s, .late, be16 b.item ++ slotBytes (.closed v code src) ++ be32 (s.decisionPointOf it p) ++ be32 s.pos.lp, []⟩

/-! ### READ_ITEM and LIST_ITEMS (R53, R54) -/

/-- The index of a live item: its place in creation order (R33). -/
def State.itemIndex (s : State) (n : Half) : Nat := s.items.live.findIdx (fun it => it.number = n)

/-- The payload of READ_ITEM (R198). -/
def State.itemBytes (s : State) (it : Item) : List Byte :=
  be16 it.number ++ [natByte (s.itemIndex it.number), itemStateCode it.state] ++ be32 it.entry ++
  be32 (it.length.getD 0xFFFFFFFF) ++ int32 it.correction ++ be32 it.base ++ be32 (s.exitPointOf it) ++
  [natByte it.recipe.val, itemFlagsByte it.flags, natByte it.missing] ++ slotsBytes it.slots ++
  natByte it.marks.length :: it.marks.flatMap markBytes ++ natByte it.actions.length :: it.actions.flatMap be16

/-- READ_ITEM (R53). -/
def readItemBody (s : State) (params : List Byte) : Answer :=
  withBlock s (readItemBlock params) fun n =>
    match s.item? n with
    | none => refuse s .noItem
    | some it => ⟨s, .ok, s.itemBytes it, []⟩

/-- LIST_ITEMS (R54). -/
def listItemsBody (s : State) (params : List Byte) : Answer :=
  withBlock s (readOneIndex 64 params) fun start =>
    let shown := (s.items.live.drop start.val).take 32
    ⟨s, .ok, [natByte s.items.live.length, natByte start.val, natByte shown.length] ++ be16 s.items.nextNumber ++
      be16 s.items.reEntry ++ shown.flatMap (fun it => be16 it.number), []⟩

/-! ### REMOVE_ITEM and PURGE_LINE (R49, R51) -/

/-- REMOVE_ITEM (R49). -/
def removeItemBody (p : Port) (s : State) (params : List Byte) : Answer :=
  withBlock s (readItemBlock params) fun n =>
  require s (s.holdsAny p resLine) .notLeased <|
    match s.item? n with
    | none => refuse s .noItem
    | some it =>
      let aborted := (it.actions.filter s.isFiring).length
      ⟨s.takeOut n .removed, .ok, be16 n ++ [natByte (it.actions.length - aborted), natByte aborted], []⟩

/-- One live item purged (R51 step 1): its actions cut short, its record removed, no head check. -/
def State.purgeItem (s : State) (it : Item) : State := (s.cutActions it.actions).removeRecord it.number .purged

/-- A pending trailing edge ITEM(n) becomes DISCARD (R51 step 2). -/
def Trailing.purge : Trailing → Trailing
  | .item _ => .discard
  | x => x

/-- The line purged (R51). -/
def State.purge (s : State) : State :=
  let s1 := s.items.live.foldl State.purgeItem s
  { s1 with items := { s1.items with trailing := s1.items.trailing.purge } }

/-- PURGE_LINE (R51). -/
def purgeLineBody (p : Port) (s : State) (params : List Byte) : Answer :=
  withBlock s (readNothing params) fun _ =>
  require s (s.holdsExclusive p resLine) .notLeased ⟨s.purge, .ok, [natByte s.items.live.length], []⟩

/-! ### The meanings -/

/-- VERDICT (R107). -/
def execVerdict (p : Port) (s : State) : Host.Outcome State Fault Refusal :=
  .next (s.takeCommand p .verdict true (verdictBody p))

/-- READ_ITEM (R53). -/
def execReadItem (p : Port) (s : State) : Host.Outcome State Fault Refusal :=
  .next (s.takeCommand p .readItem true readItemBody)

/-- LIST_ITEMS (R54). -/
def execListItems (p : Port) (s : State) : Host.Outcome State Fault Refusal :=
  .next (s.takeCommand p .listItems true listItemsBody)

/-- REMOVE_ITEM (R49). -/
def execRemoveItem (p : Port) (s : State) : Host.Outcome State Fault Refusal :=
  .next (s.takeCommand p .removeItem true (removeItemBody p))

/-- PURGE_LINE (R51). -/
def execPurgeLine (p : Port) (s : State) : Host.Outcome State Fault Refusal :=
  .next (s.takeCommand p .purgeLine true (purgeLineBody p))

end Sys2Proof.Machine
end

