-- ==== Sys2Proof/Machine/Events.lean ====
section
/-! DEFINITION. The events that are no command: transactions on the host ports, the encoder, the detect inputs, the
timers, and RSTN. An event whose occasion does not exist (a timer that is stopped, a CSN that is already high) changes
nothing (log 3). -/
namespace Sys2Proof.Machine

/-- The window timer of the action bound in a pool entry runs out (R96): the action ends DONE. -/
def State.windowExpiry (s : State) (i : Fin 256) : State :=
  match (s.entry i).action with
  | some a => if a.timer.isSome then s.endAction a.handle .done else s
  | none => s

/-- The keepalive timer of a port runs out (R165): the session ends with reason EXPIRED. -/
def State.keepaliveExpires (s : State) (p : Port) : State :=
  if (s.port p).session.attached && (s.port p).session.timer.isSome then s.endSession p .expired else s

/-- READ (R184). -/
def execRead (p : Port) (clocked : Nat) (s : State) : Host.Outcome State Fault Refusal := .next (s.endRead p clocked)

/-- CSN_FALL (R178). -/
def execCsnFall (p : Port) (s : State) : Host.Outcome State Fault Refusal := .next (s.csnFalls p)

/-- REPLY_SLOT_COPY (R184). -/
def execReplySlotCopy (p : Port) (s : State) : Host.Outcome State Fault Refusal := .next (s.copySlot p)

/-- COMMAND_FRAME_END (R181). -/
def execCommandFrameEnd (p : Port) (bytes : List Byte) (partialByte : Bool) (s : State) :
    Host.Outcome State Fault Refusal :=
  .next (s.endFrame p bytes partialByte)

/-- POWER_ON_RESET (R195, R200). -/
def execPowerOnReset (lowNs : Nat) (s : State) : Host.Outcome State Fault Refusal := .next (s.resetPulse lowNs)

/-- RSTN_RISE (R15). -/
def execRstnRise (s : State) : Host.Outcome State Fault Refusal := .next s.resetRise

/-- ENCODER_PHASE_CHANGE (R4). -/
def execEncoderPhaseChange (a b : Bool) (s : State) : Host.Outcome State Fault Refusal := .next (s.phaseChange a b)

/-- ENCODER_FILTER_EXPIRY (R4). -/
def execEncoderFilterExpiry (a b : Bool) (s : State) : Host.Outcome State Fault Refusal := .next (s.phaseExpiry a b)

/-- STANDSTILL_TIMER_EXPIRY (R9). -/
def execStandstillTimerExpiry (s : State) : Host.Outcome State Fault Refusal := .next s.standstill

/-- RAW_TRANSITION (R18). -/
def execRawTransition (k : Fin 8) (level : Bool) (s : State) : Host.Outcome State Fault Refusal :=
  .next (s.pinChange k level)

/-- DETECT_FILTER_EXPIRY (R19). -/
def execDetectFilterExpiry (k : Fin 8) (s : State) : Host.Outcome State Fault Refusal := .next (s.filterExpiry k)

/-- WINDOW_TIMER_EXPIRY (R96). -/
def execWindowTimerExpiry (entry : Fin 256) (s : State) : Host.Outcome State Fault Refusal :=
  .next (s.windowExpiry entry)

/-- GAP_TIMER_EXPIRY (R140). -/
def execGapTimerExpiry (c : Fin 16) (s : State) : Host.Outcome State Fault Refusal := .next (s.gapExpiry c)

/-- KEEPALIVE_EXPIRY (R165). -/
def execKeepaliveExpiry (p : Port) (s : State) : Host.Outcome State Fault Refusal := .next (s.keepaliveExpires p)

end Sys2Proof.Machine
end

