-- ==== Sys2Proof/Machine/Dispatch.lean ====
section
/-! DEFINITION. The dispatch of the steps: one arm for each constructor of `Instr`. -/
namespace Sys2Proof.Machine

/-- The effect of a command or event on everything but the queue. -/
def exec (i : Instr) (s : State) : Host.Outcome State Fault Refusal :=
  match i with
  | .attach p => Sys2Proof.Machine.execAttach p s
  | .detach p => Sys2Proof.Machine.execDetach p s
  | .portReset p => Sys2Proof.Machine.execPortReset p s
  | .status p => Sys2Proof.Machine.execStatus p s
  | .fetch p => Sys2Proof.Machine.execFetch p s
  | .ack p => Sys2Proof.Machine.execAck p s
  | .lease p => Sys2Proof.Machine.execLease p s
  | .release p => Sys2Proof.Machine.execRelease p s
  | .configLine p => Sys2Proof.Machine.execConfigLine p s
  | .configInput p => Sys2Proof.Machine.execConfigInput p s
  | .configChannel p => Sys2Proof.Machine.execConfigChannel p s
  | .writeRecipe p => Sys2Proof.Machine.execWriteRecipe p s
  | .eraseRecipe p => Sys2Proof.Machine.execEraseRecipe p s
  | .readRecipe p => Sys2Proof.Machine.execReadRecipe p s
  | .stageRecipe p => Sys2Proof.Machine.execStageRecipe p s
  | .cancelStage p => Sys2Proof.Machine.execCancelStage p s
  | .postAction p => Sys2Proof.Machine.execPostAction p s
  | .cancelAction p => Sys2Proof.Machine.execCancelAction p s
  | .clearChannel p => Sys2Proof.Machine.execClearChannel p s
  | .readChannel p => Sys2Proof.Machine.execReadChannel p s
  | .verdict p => Sys2Proof.Machine.execVerdict p s
  | .readItem p => Sys2Proof.Machine.execReadItem p s
  | .listItems p => Sys2Proof.Machine.execListItems p s
  | .removeItem p => Sys2Proof.Machine.execRemoveItem p s
  | .purgeLine p => Sys2Proof.Machine.execPurgeLine p s
  | .setHold p => Sys2Proof.Machine.execSetHold p s
  | .releaseHold p => Sys2Proof.Machine.execReleaseHold p s
  | .readPosition p => Sys2Proof.Machine.execReadPosition p s
  | .setPosition p => Sys2Proof.Machine.execSetPosition p s
  | .resetDevice p => Sys2Proof.Machine.execResetDevice p s
  | .unknownCommand p => Sys2Proof.Machine.execUnknownCommand p s
  | .read p clocked => Sys2Proof.Machine.execRead p clocked s
  | .powerOnReset lowNs => Sys2Proof.Machine.execPowerOnReset lowNs s
  | .encoderPhaseChange a b => Sys2Proof.Machine.execEncoderPhaseChange a b s
  | .encoderFilterExpiry a b => Sys2Proof.Machine.execEncoderFilterExpiry a b s
  | .standstillTimerExpiry => Sys2Proof.Machine.execStandstillTimerExpiry s
  | .rawTransition k level => Sys2Proof.Machine.execRawTransition k level s
  | .detectFilterExpiry k => Sys2Proof.Machine.execDetectFilterExpiry k s
  | .windowTimerExpiry entry => Sys2Proof.Machine.execWindowTimerExpiry entry s
  | .gapTimerExpiry c => Sys2Proof.Machine.execGapTimerExpiry c s
  | .keepaliveExpiry p => Sys2Proof.Machine.execKeepaliveExpiry p s
  | .rstnRise => Sys2Proof.Machine.execRstnRise s
  | .csnFall p => Sys2Proof.Machine.execCsnFall p s
  | .replySlotCopy p => Sys2Proof.Machine.execReplySlotCopy p s
  | .commandFrameEnd p bytes partialByte => Sys2Proof.Machine.execCommandFrameEnd p bytes partialByte s

end Sys2Proof.Machine
end

