-- ==== Sys2Proof/Safety.lean ====
section
/-! DEFINITION. What the claims speak of: the relations that the manual says hold in every state (R26, R34, R60, R64,
R67, R76, R79, R137, R153, R166, R185, R187), and the words in which a command's taking and its reply are stated (R164, R181,
R183). Nothing here is used by the step. -/
namespace Sys2Proof.Machine

/-! ### Relations that every step keeps -/

/-- The serials of a queue are consecutive, oldest to newest, and end just before the next serial (R185). -/
def SerialsRun : List Notice → Byte → Prop
  | [], _ => True
  | [n], next => n.serial + 1 = next
  | n :: m :: rest, next => n.serial + 1 = m.serial ∧ SerialsRun (m :: rest) next

/-- R185 and R187 of one port: at most 32 notices, consecutive serials, a queue that is empty without a session, and a
lost count only against a full queue. -/
structure PortState.QueueSound (ps : PortState) : Prop where
  bounded : ps.queue.length ≤ 32
  serials : SerialsRun ps.queue ps.nextSerial
  lostOnlyFull : ps.lost ≠ 0 → ps.queue.length = 32
  detachedEmpty : ps.session.attached = false → ps.queue = [] ∧ ps.lost = 0

/-- R185, R187 of every port. -/
def State.QueuesSound (s : State) : Prop := ∀ p, (s.port p).QueueSound

/-- R166 of one entry: a port at most once among holders and waiters together, and only while it has a session; an
exclusive holder alone; a wait list only behind a holder, and of at most two entries. -/
structure State.LeaseSound (s : State) (e : LeaseEntry) : Prop where
  oneEach : ((e.holders ++ e.waiters).map Prod.fst).Nodup
  exclusiveAlone : ∀ h ∈ e.holders, h.2 = .exclusive → e.holders = [h]
  waitersBehind : e.waiters ≠ [] → e.holders ≠ []
  waitersFew : e.waiters.length ≤ 2
  attached : ∀ h ∈ e.holders ++ e.waiters, (s.port h.1).session.attached = true

/-- R166 of the whole Lease Table. -/
def State.LeasesSound (s : State) : Prop := ∀ r, s.LeaseSound (s.lease r)

/-- R137: the combinations in which the output state, the two sets and the gap timer stand between events. -/
def Channel.Combination (ch : Channel) : Prop :=
  ch.gapFresh = false ∧
    match ch.out with
    | .off => ch.onSet = [] ∧ ch.waitSet = [] ∧ ch.gapTimer = none
    | .on => ch.onSet ≠ [] ∧ ch.waitSet = [] ∧ ch.gapTimer = none
    | .gap => ch.onSet = [] ∧ ch.gapTimer ≠ none

/-- R137 of every channel. -/
def State.ChannelsSound (s : State) : Prop := ∀ c, (s.channel c).Combination

/-- R33, R34, R60: at most 64 live items, no two with one number, none with number 0, and each recipe's reference count
the number of live items that use it. -/
structure State.ItemsSound (s : State) : Prop where
  atMost : s.items.live.length ≤ 64
  distinct : (s.items.live.map Item.number).Nodup
  nonzero : ∀ it ∈ s.items.live, it.number ≠ 0
  next : s.items.nextNumber ≠ 0
  refCounts : ∀ i, (s.recipe i).refCount = s.items.live.countP (fun it => it.recipe = i)

/-- The handle is that of a bound action (R76, R77): its low byte is the index of an entry that is bound, and its high
byte that entry's generation. -/
def State.Names (s : State) (h : Handle) (a : Action) : Prop :=
  ∃ i : Fin 256, h = (s.entry i).generation ++ BitVec.ofFin (w := 8) i ∧ (s.entry i).action = some a

/-- The part of a Channel Schedule in which an action stands (R79): FIRING, then OVERDUE, then AHEAD. -/
def ActionState.part : ActionState → Nat
  | .on => 1
  | .waitGap => 1
  | .overdue => 2
  | .ahead => 3

/-- R76, R78, R79, R80, R136 of the Action Store, with the item action lists and the ON and wait sets: a bound action stands
in its own entry, in the schedule of its channel once, in the list of its item once, and, while it is FIRING, in the set of
its channel that its sub-state names; a free entry stands in the free list once; generations are 1 to 255. -/
structure State.ActionsSound (s : State) : Prop where
  ownHandle : ∀ i a, (s.entry i).action = some a → a.handle = (s.entry i).generation ++ BitVec.ofFin (w := 8) i
  generations : ∀ i, (s.entry i).generation ≠ 0
  freeOnce : s.actions.freeList.Nodup
  free : ∀ i, i ∈ s.actions.freeList ↔ (s.entry i).action = none
  scheduledOnce : ∀ c, (s.schedule c).Nodup
  scheduled : ∀ c h, h ∈ s.schedule c ↔ ∃ a, s.Names h a ∧ a.channel = c
  parts : ∀ c, (s.schedule c).Pairwise (fun x y => ∀ a b, s.Names x a → s.Names y b → a.state.part ≤ b.state.part)
  listedOnce : ∀ it ∈ s.items.live, it.actions.Nodup ∧ it.actions.length ≤ 16
  listed : ∀ it ∈ s.items.live, ∀ h, h ∈ it.actions ↔ ∃ a, s.Names h a ∧ a.item = it.number
  itemLives : ∀ h a, s.Names h a → ∃ it ∈ s.items.live, it.number = a.item
  setsOnce : ∀ c, (s.channel c).onSet.Nodup ∧ (s.channel c).waitSet.Nodup
  onSet : ∀ c h, h ∈ (s.channel c).onSet ↔ ∃ a, s.Names h a ∧ a.channel = c ∧ a.state = .on
  waitSet : ∀ c h, h ∈ (s.channel c).waitSet ↔ ∃ a, s.Names h a ∧ a.channel = c ∧ a.state = .waitGap
  notFalse : ∀ h a, s.Names h a → a.condState ≠ .fails
  started : ∀ h a, s.Names h a → (a.start ≠ none ↔ a.state = .on) ∧ (a.timer ≠ none → a.state = .on) ∧
    (a.handOver ≠ none ↔ a.state = .on ∨ a.state = .waitGap)
  leaving : ∀ it ∈ s.items.live, it.state = .leaving → it.actions ≠ [] ∧
    ∀ h a, s.Names h a → a.item = it.number → a.state = .on ∨ a.state = .waitGap
  templates : ∀ i, (s.recipe i).body.templates.length ≤ 8

/-- R64, R67: the Stage Queue holds at most two entries, every staged recipe is valid, and so are the current recipe and
recipe 0. -/
structure State.RecipesSound (s : State) : Prop where
  atMost : s.recipes.stage.length ≤ 2
  staged : ∀ e ∈ s.recipes.stage, (s.recipe e.recipe).valid = true
  current : (s.recipe s.recipes.current).valid = true
  zero : (s.recipe 0).valid = true

/-- R26: at most one input holds the ENTRY role. -/
def State.OneEntry (s : State) : Prop := ∀ j k, (s.input j).role = .entry → (s.input k).role = .entry → j = k

/-- R149, R196: the hold cause set holds assigned causes only, and the hold mask condition causes only. -/
def State.CausesSound (s : State) : Prop := s.hold &&& ~~~allCauses = 0 ∧ s.line.holdMask &&& ~~~conditionCauses = 0

/-! ### The taking of a command, in the words of the claims -/

/-- The row of the table that takes a command's frames. -/
def CommandName.row : CommandName → Port → Instr
  | .attach => .attach
  | .detach => .detach
  | .portReset => .portReset
  | .status => .status
  | .fetch => .fetch
  | .ack => .ack
  | .lease => .lease
  | .release => .release
  | .configLine => .configLine
  | .configInput => .configInput
  | .configChannel => .configChannel
  | .writeRecipe => .writeRecipe
  | .eraseRecipe => .eraseRecipe
  | .readRecipe => .readRecipe
  | .stageRecipe => .stageRecipe
  | .cancelStage => .cancelStage
  | .postAction => .postAction
  | .cancelAction => .cancelAction
  | .clearChannel => .clearChannel
  | .readChannel => .readChannel
  | .verdict => .verdict
  | .readItem => .readItem
  | .listItems => .listItems
  | .removeItem => .removeItem
  | .purgeLine => .purgeLine
  | .setHold => .setHold
  | .releaseHold => .releaseHold
  | .readPosition => .readPosition
  | .setPosition => .setPosition
  | .resetDevice => .resetDevice

/-- The commands that a detached port takes as well (R159). -/
def CommandName.takenDetached (c : CommandName) : Bool := c = .attach || c = .status || c = .portReset

/-- The parameter lengths of a command (spec 12, table of command codes): n, or 22 + 12t for t templates. -/
def CommandName.lengthAllowed : CommandName → Nat → Bool
  | .attach, n => n = 5
  | .detach, n => n = 0
  | .portReset, n => n = 0
  | .status, n => n = 0
  | .fetch, n => n = 0
  | .ack, n => n = 1
  | .lease, n => n = 3
  | .release, n => n = 1
  | .configLine, n => n = 23
  | .configInput, n => n = 10
  | .configChannel, n => n = 7
  | .writeRecipe, n => 22 ≤ n && (n - 22) % 12 = 0
  | .eraseRecipe, n => n = 1
  | .readRecipe, n => n = 1
  | .stageRecipe, n => n = 6
  | .cancelStage, n => n = 1
  | .postAction, n => n = 14
  | .cancelAction, n => n = 2
  | .clearChannel, n => n = 1
  | .readChannel, n => n = 1
  | .verdict, n => n = 4
  | .readItem, n => n = 2
  | .listItems, n => n = 1
  | .removeItem, n => n = 2
  | .purgeLine, n => n = 0
  | .setHold, n => n = 0
  | .releaseHold, n => n = 2
  | .readPosition, n => n = 0
  | .setPosition, n => n = 4
  | .resetDevice, n => n = 0

/-- The oldest waiting frame of the port is a well-formed frame of the command, and `rest` waits behind it (R178, R181). -/
def State.FrameWaits (s : State) (p : Port) (name : CommandName) (seq : Byte) (params : List Byte)
    (rest : List Frame) : Prop :=
  params.length ≤ 128 ∧ (s.port p).waiting = ⟨commandFrame (commandCode name) seq params, false⟩ :: rest

/-- The session after a well-formed frame of known code: the keepalive timer of an attached port starts anew (R164). -/
def Session.heard (x : Session) : Session :=
  if x.attached then { x with timer := if x.keepalive = 0 then none else some x.keepalive } else x

/-- The state in which a command's own rule acts: its frame has left the list, and the keepalive timer has started anew
(R164, R181). -/
def State.taking (s : State) (p : Port) (rest : List Frame) : State :=
  s.setPort p { s.port p with waiting := rest, session := (s.port p).session.heard }

/-- The reply in a port's slot (R183): code and sequence as received, a result and its payload, not read, marked
REPLY_OVERRUN when `overrun` holds, with the status byte of the port as it stands with the reply in the slot. -/
def State.Replied (t : State) (p : Port) (code seq : Byte) (result : Result) (payload : List Byte)
    (overrun : Bool) : Prop :=
  (t.port p).slot = some
    { status := statusByte (t.port p) (t.hold != 0), code := code, seq := seq, result := result,
      payload := payload, read := false, overrun := overrun, copied := false }

/-- A notice of a class posted to every port (R186, R187), in the words of the claims: an attached port whose class mask
includes the class queues it with its next serial, or counts it as lost when its queue holds 32 notices; nothing else of
any port changes. -/
def State.Posted (s t : State) (c : NoticeClass) (item : Half) (position : Position) (body : NoticeBody) : Prop :=
  ∀ q, t.port q =
    if (s.port q).session.attached && (s.port q).session.classes.includes c then
      if (s.port q).queue.length < 32 then
        { s.port q with
          queue := (s.port q).queue ++ [⟨(s.port q).nextSerial, item, position, body⟩]
          nextSerial := (s.port q).nextSerial + 1 }
      else { s.port q with lost := saturatingSucc (s.port q).lost }
    else s.port q

/-- What posting notices may do to a port: only the queue's tail, the next serial and the lost count change (R185 to
R187). -/
structure PortState.OnlyNotices (a b : PortState) : Prop where
  session : b.session = a.session
  csnLow : b.csnLow = a.csnLow
  transaction : b.transaction = a.transaction
  waiting : b.waiting = a.waiting
  slot : b.slot = a.slot
  queue : a.queue <+: b.queue

/-- A verdict slot as two bytes in a notice (R198): state in bits 1 to 0, verdict in bit 2, pending flag in bit 3, source in
bits 5 to 4; the code. -/
def Slot.pair (shown : Bool) : Slot → List Byte
  | .absent => [0x00, 0x00]
  | .opened none => [0x01, 0x00]
  | .opened (some (.accept, code)) => if shown then [0x09, code.setWidth 8] else [0x01, 0x00]
  | .opened (some (.reject, code)) => if shown then [0x0D, code.setWidth 8] else [0x01, 0x00]
  | .closed .accept code .byPort => [0x12, code.setWidth 8]
  | .closed .reject code .byPort => [0x16, code.setWidth 8]
  | .closed .accept code .byDefault => [0x22, code.setWidth 8]
  | .closed .reject code .byDefault => [0x26, code.setWidth 8]
  | .closed .accept code .forced => [0x32, code.setWidth 8]
  | .closed .reject code .forced => [0x36, code.setWidth 8]

/-- A byte put together from its bits 0, 1, 2, ... (R196: a flag byte takes the bit positions its table gives). -/
def flagsFrom : List Bool → Byte
  | [] => 0
  | b :: rest => (flagsFrom rest <<< 1) ||| (if b then 1 else 0)

/-- The kind code and the 8 data bytes of a notice, byte by byte (R199). Whether ITEM_EXIT shows a pending verdict is a free
value (log 40). -/
def NoticeBody.layout : NoticeBody → Byte × List Byte
  | .itemEnter recipe voters created missing =>
    (0x10, [BitVec.ofNat 8 recipe.val, flagsFrom [voters.a, voters.b, voters.c], BitVec.ofNat 8 created,
      BitVec.ofNat 8 missing, 0, 0, 0, 0])
  | .itemDecided slots anyReject holdDefault source =>
    let completing := match source with
      | .byPort => 0x10
      | .byDefault => 0x20
      | .forced => 0x30
    (0x11, slots.a.pair true ++ slots.b.pair true ++ slots.c.pair true ++
      [flagsFrom [anyReject, holdDefault] ||| completing, 0])
  | .itemExit reason flags slots =>
    let why := match reason with
      | .exit => 0
      | .removed => 1
      | .purged => 2
      | .missed => 3
    let shown := Config.exitShowsPending
    (0x12, [why, flagsFrom [flags.lengthFault, flags.jam, flags.missed, flags.incomplete]] ++
      slots.a.pair shown ++ slots.b.pair shown ++ slots.c.pair shown)
  | .entryLost count => (0x13, be16 count ++ [0, 0, 0, 0, 0, 0])
  | .reEntryIgnored count => (0x14, be16 count ++ [0, 0, 0, 0, 0, 0])
  | .lengthFault length limit policy =>
    (0x15, be32 length ++ [match limit with
      | .minimum => 1
      | .maximum => 2
      | .reversed => 3,
      if policy = .note then 0 else 1, 0, 0])
  | .jam length => (0x16, 0 :: be24 length ++ [0, 0, 0, 0])
  | .checkpointMatch input marks slip correction =>
    (0x17, [BitVec.ofNat 8 input.val, BitVec.ofNat 8 marks] ++ be24 (BitVec.ofInt 24 slip) ++
      be24 (BitVec.ofInt 24 correction))
  | .checkpointMiss input onMiss marks correction =>
    (0x18, [BitVec.ofNat 8 input.val, match onMiss with
      | .note => 0
      | .hold => 1
      | .reject => 2
      | .remove => 3, BitVec.ofNat 8 marks] ++ be24 (BitVec.ofInt 24 correction) ++ [0, 0])
  | .mark input lp => (0x20, BitVec.ofNat 8 input.val :: be32 lp ++ [0, 0, 0])
  | .phantom input lp => (0x21, BitVec.ofNat 8 input.val :: be32 lp ++ [0, 0, 0])
  | .lineStill => (0x30, List.replicate 8 0)
  | .lineMoving direction => (0x31, (if direction = .forward then 0 else 1) :: List.replicate 7 0)
  | .encoderError count => (0x32, be16 count ++ [0, 0, 0, 0, 0, 0])
  | .reverseFault hwp allowance => (0x33, be32 hwp ++ be16 allowance ++ [0, 0])
  | .holdChanged after before origin port =>
    (0x34, be16 after ++ be16 before ++ [match origin with
      | .raised => 0
      | .set => 1
      | .released => 2
      | .sessionEnd => 3, match port with
      | some .A => 0
      | some .B => 1
      | some .C => 2
      | none => 3, 0, 0])
  | .recipeSwitched new previous trigger left =>
    (0x35, [BitVec.ofNat 8 new.val, BitVec.ofNat 8 previous.val, if trigger = .nextEntry then 0 else 1,
      BitVec.ofNat 8 left] ++ match trigger with
      | .nextEntry => [0, 0, 0, 0]
      | .atPosition x => be32 x)
  | .actionEnd handle tag outcome late delayed wasFiring started run =>
    let ending := match outcome with
      | .done => 0
      | .skipped => 1
      | .cancelled => 2
      | .displaced => 3
      | .lost => 4
      | .aborted => 5
    (0x40, be16 handle ++ be16 tag ++
      [ending ||| flagsFrom [false, false, false, late, delayed, wasFiring, started]] ++ be24 run)
  | .leaseGranted resource kind holders waiters =>
    (0x41, [BitVec.ofNat 8 resource.val, if kind = .exclusive then 0 else 1, BitVec.ofNat 8 holders,
      BitVec.ofNat 8 waiters, 0, 0, 0, 0])
  | .overflow lost => (0x42, be16 lost ++ [0, 0, 0, 0, 0, 0])

/-- The 16 bytes of a notice record (spec 12, 'Notice records'): serial, kind, item number, position, data. -/
def Notice.record (n : Notice) : List Byte :=
  n.serial :: n.body.layout.1 :: (be16 n.item ++ be32 n.position ++ n.body.layout.2)

/-- The wait list arbiter of a resource makes `n` grants and stops (R169, R170): an EXCLUSIVE head is granted on an empty
holder set, a SHARED head where no exclusive holder stands; a grant moves the head to the holders and posts LEASE_GRANTED
to it. -/
inductive State.Arbitrates (r : Fin 33) : Nat → State → State → Prop
  | done (s : State) (h : (s.lease r).waiters = []) : Arbitrates r 0 s s
  | stop (s : State) (q : Port) (k : LeaseKind) (rest : List (Port × LeaseKind))
      (h : (s.lease r).waiters = (q, k) :: rest)
      (refused : ¬(k = .exclusive ∧ (s.lease r).holders = [] ∨
        k = .shared ∧ ∀ x ∈ (s.lease r).holders, x.2 ≠ .exclusive)) : Arbitrates r 0 s s
  | grant (s t : State) (n : Nat) (q : Port) (k : LeaseKind) (rest : List (Port × LeaseKind))
      (h : (s.lease r).waiters = (q, k) :: rest)
      (granted : k = .exclusive ∧ (s.lease r).holders = [] ∨
        k = .shared ∧ ∀ x ∈ (s.lease r).holders, x.2 ≠ .exclusive)
      (more : Arbitrates r n
        ((s.updLease r (fun e => ⟨e.holders ++ [(q, k)], rest⟩)).offerTo q 0 s.pos.lp
          (.leaseGranted r k ((s.lease r).holders.length + 1) rest.length)) t) : Arbitrates r (n + 1) s t

/-- A position is ahead of LP (spec 00, 'Terms'): the forward distance to it is between 1 and 2^31 − 1. -/
def State.Ahead (s : State) (x : Position) : Prop := 1 ≤ (x - s.pos.lp).toNat ∧ (x - s.pos.lp).toNat ≤ 2147483647

/-! ### Configuration, in the words of the claims -/

/-- The ranges of the line configuration (spec 10, table 'Line configuration'; R173 check 1). -/
structure LineConfig.InRange (c : LineConfig) : Prop where
  exit : c.exitDistance ≠ 0
  jam : c.jamLength ≠ 0
  standstill : c.standstillTime ≠ 0
  ranks : ∀ p, 1 ≤ (c.ranks.get p).toNat ∧ (c.ranks.get p).toNat ≤ 3
  distinct : c.ranks.a ≠ c.ranks.b ∧ c.ranks.b ≠ c.ranks.c ∧ c.ranks.a ≠ c.ranks.c
  mask : c.holdMask &&& ~~~conditionCauses = 0

/-- An offset that an exit distance does not exceed: a voter's decision offset or a template's fire offset of a valid
recipe, or the N + W of a CHECKPOINT input (R173 check 4). -/
inductive State.Offends (s : State) (exit : Nat) : (offset : Nat) → (byInput : Bool) → (index : Nat) → Prop
  | decision (i : Fin 8) (p : Port) (v : (s.recipe i).valid = true) (h : (s.recipe i).body.voter.get p = true)
      (o : exit ≤ ((s.recipe i).body.decision.get p).toNat) :
      Offends s exit ((s.recipe i).body.decision.get p).toNat false i.val
  | fire (i : Fin 8) (t : Template) (v : (s.recipe i).valid = true) (h : t ∈ (s.recipe i).body.templates)
      (o : exit ≤ t.fire.toNat) : Offends s exit t.fire.toNat false i.val
  | checkpoint (k : Fin 8) (h : (s.input k).role = .checkpoint)
      (o : exit ≤ (s.input k).nominal.toNat + (s.input k).window.toNat) :
      Offends s exit ((s.input k).nominal.toNat + (s.input k).window.toNat) true k.val

/-- The codes of a role (spec 12). -/
def Role.code : Role → Byte
  | .off => 0
  | .entry => 1
  | .checkpoint => 2
  | .mark => 3

/-- The codes of an active level (spec 12). -/
def ActiveLevel.code : ActiveLevel → Byte
  | .high => 0
  | .low => 1

/-- The codes of a polarity (spec 12). -/
def Polarity.code : Polarity → Byte
  | .activeHigh => 0
  | .activeLow => 1

/-- The hold cause set after a change, with the one HOLD_CHANGED that a change of it posts (R149, R154). -/
def State.HoldChanged (s t : State) (after : Half) (origin : HoldOrigin) (port : Option Port) : Prop :=
  t = { s with hold := after, ports := t.ports } ∧
    if after = s.hold then t.ports = s.ports
    else s.Posted t .line 0 s.pos.lp (.holdChanged after s.hold origin port)

/-! ### Recipes and actions, in the words of the claims -/

/-- The slots on which a condition depends (R62): those of the port it names, or those of every voter of the body. -/
def Condition.dependsOn (body : RecipeBody) : Condition → Port → Prop
  | .always, _ => False
  | .ifAccept q, p => p = q
  | .ifReject q, p => p = q
  | .ifAllAccept, p => body.voter.get p = true
  | .ifAnyReject, p => body.voter.get p = true

/-- The port that a condition names, if its kind names one (R80). -/
def Condition.port : Condition → Option Port
  | .ifAccept q => some q
  | .ifReject q => some q
  | _ => none

/-- A template's 12 bytes (spec 12), with the port bits of a condition kind that names no port as `ignored` has them. -/
def Template.block (t : Template) (ignored : BitVec 2) : List Byte :=
  natByte t.channel.val :: be24 t.fire ++ widthKindCode t.width :: be24 (widthValue t.width) ++
    (conditionKindCode t.condition ||| ((t.condition.port.elim (ignored.setWidth 8) portCode) <<< 4)) ::
      portOrNoneCode t.report :: be16 t.tag

/-- The parameter block of WRITE_RECIPE, which is also the body's layout in READ_RECIPE (spec 12). -/
def RecipeBody.block (i : Fin 8) (b : RecipeBody) (ignored : List (BitVec 2)) : List Byte :=
  natByte i.val :: natByte b.templates.length :: be24 b.lengthMin ++ be24 b.lengthMax ++
    lengthPolicyCode b.policy :: voterSetByte b.voter ::
    (be24 b.decision.a ++ [voterDefaultCode b.default_.a] ++ be24 b.decision.b ++ [voterDefaultCode b.default_.b] ++
      be24 b.decision.c ++ [voterDefaultCode b.default_.c]) ++
    (b.templates.zip ignored).flatMap (fun x => x.1.block x.2)

/-- A template's 12 bytes as a WRITE_RECIPE may carry them: `port` in the port bits of a condition kind that names no port,
and `value` as the width value of LATCH, both ignored (R196). -/
def Template.carried (t : Template) (port : BitVec 2) (value : Offset) : List Byte :=
  natByte t.channel.val :: be24 t.fire ++
    widthKindCode t.width :: be24 (if t.width = .latch then value else widthValue t.width) ++
    (conditionKindCode t.condition ||| ((t.condition.port.elim (port.setWidth 8) portCode) <<< 4)) ::
      portOrNoneCode t.report :: be16 t.tag

/-- The parameter block of WRITE_RECIPE for a body as it is to be stored (spec 12), whatever it carries in the fields that
R196 has ignored: `spare` the decision offset and default byte of each port that is no voter, `ignored` what
`Template.carried` has for each template. -/
def RecipeBody.carried (i : Fin 8) (b : RecipeBody) (spare : PerPort (Offset × Byte))
    (ignored : List (BitVec 2 × Offset)) : List Byte :=
  let voter := fun q =>
    if b.voter.get q = true then be24 (b.decision.get q) ++ [voterDefaultCode (b.default_.get q)]
    else be24 (spare.get q).1 ++ [(spare.get q).2]
  natByte i.val :: natByte b.templates.length :: be24 b.lengthMin ++ be24 b.lengthMax ++
    lengthPolicyCode b.policy :: flagsFrom [b.voter.a, b.voter.b, b.voter.c] :: (voter .A ++ voter .B ++ voter .C) ++
    (b.templates.zip ignored).flatMap (fun x => x.1.carried x.2.1 x.2.2)

/-- A body as R58 stores it: the decision offset and default of a port that is no voter are 0 and ACCEPT. -/
def RecipeBody.Stored (b : RecipeBody) : Prop :=
  ∀ p, b.voter.get p = false → b.decision.get p = 0 ∧ b.default_.get p = .accept

/-- Check 1 of R61 for a body that a block can carry: widths not zero, the limits in order when both are non-zero. -/
def RecipeBody.InRange (b : RecipeBody) : Prop :=
  (∀ t ∈ b.templates, t.width ≠ .counts 0 ∧ t.width ≠ .time 0) ∧
    ¬(b.lengthMin ≠ 0 ∧ b.lengthMax ≠ 0 ∧ b.lengthMax.toNat < b.lengthMin.toNat)

/-- A channel after the action `h` has left its ON set or wait set (R139). -/
structure Channel.Left (a b : Channel) (h : Handle) : Prop where
  others : h ∈ a.onSet → a.onSet.filter (fun x => x ≠ h) ≠ [] →
    b = { a with onSet := a.onSet.filter (fun x => x ≠ h) }
  off : h ∈ a.onSet → a.onSet.filter (fun x => x ≠ h) = [] → a.minGap = 0 →
    b = { a with onSet := [], out := .off }
  gap : h ∈ a.onSet → a.onSet.filter (fun x => x ≠ h) = [] → a.minGap ≠ 0 →
    b = { a with onSet := [], out := .gap, gapTimer := some a.minGap }
  waiting : h ∉ a.onSet → b = { a with waitSet := a.waitSet.filter (fun x => x ≠ h) }

/-- The notices of one port after an offer whatever its class mask (R186, R187). -/
def PortState.Offer (a b : PortState) (item : Half) (position : Position) (body : NoticeBody) : Prop :=
  b = if a.session.attached then
        if a.queue.length < 32 then
          { a with queue := a.queue ++ [⟨a.nextSerial, item, position, body⟩], nextSerial := a.nextSerial + 1 }
        else { a with lost := saturatingSucc a.lost }
      else a

/-- Steps 1 to 4 of the ending of the action `a` that the handle `h` names (R93, R94, R76): everything that they change.
(In every state that a run reaches, the handle in the record is `h` itself.) -/
structure State.Ended (s t : State) (h : Handle) (a : Action) (outcome : ActionOutcome) : Prop where
  channels : ∀ c, if c = a.channel ∧ (a.state = .on ∨ a.state = .waitGap) then (s.channel c).Left (t.channel c) h
    else t.channel c = s.channel c
  schedules : ∀ c, t.schedule c =
    if c = a.channel then (s.schedule c).filter (fun x => x ≠ a.handle) else s.schedule c
  items : t.items = { s.items with live := s.items.live.map (fun it =>
    if it.number = a.item then { it with actions := it.actions.filter (fun x => x ≠ a.handle) } else it) }
  report : ∀ q, if a.report = some q then
      (s.port q).Offer (t.port q) a.item s.pos.lp (.actionEnd a.handle a.tag outcome a.late a.delayed
        (a.state = .on ∨ a.state = .waitGap) a.start.isSome
        (a.start.elim 0 (fun x => BitVec.ofNat 24 (min (s.pos.lp - x).toNat 16777215))))
    else t.port q = s.port q
  pool : ∀ i, t.entry i =
    if i = handleIndex h then
      ⟨if (s.entry i).generation = 255 then 1 else (s.entry i).generation + 1, none⟩
    else s.entry i
  freeList : t.actions.freeList = s.actions.freeList ++ [handleIndex h]
  rest : t = { s with channels := t.channels, actions := t.actions, items := t.items, ports := t.ports } ∧
    t.actions.bindCount = s.actions.bindCount

/-! ### Endings and removals, in the words of the claims -/

/-- The actions that the handles of a list name, ended one after another by steps 1 to 4 of R93, each with the outcome that
`outcome` gives it; one to which it gives none is left. -/
inductive State.CutEach (outcome : Action → Option ActionOutcome) : List Handle → State → State → Prop
  | done (s : State) : CutEach outcome [] s s
  | left (s t : State) (h : Handle) (rest : List Handle) (none : ∀ a, s.Names h a → outcome a = none)
      (more : CutEach outcome rest s t) : CutEach outcome (h :: rest) s t
  | one (s u t : State) (h : Handle) (rest : List Handle) (a : Action) (o : ActionOutcome) (named : s.Names h a)
      (gives : outcome a = some o) (ended : s.Ended u h a o) (more : CutEach outcome rest u t) :
      CutEach outcome (h :: rest) s t

/-- The actions of a list cut short one after another (R49 to R51): an ARMED action ends LOST, a FIRING one ABORTED, and
step 5 of R93 is not made. -/
def State.CutInTurn : List Handle → State → State → Prop :=
  State.CutEach (fun a => some (if a.state = .on ∨ a.state = .waitGap then .aborted else .lost))

/-- The ARMED actions of a list ended LOST one after another, and the FIRING ones left (R44). -/
def State.LostInTurn : List Handle → State → State → Prop :=
  State.CutEach (fun a => if a.state = .on ∨ a.state = .waitGap then none else some .lost)

/-- Steps 1 to 4 of R46: the record leaves the table, its recipe's reference count falls by one, ITEM_EXIT is posted. -/
def State.Removed (s t : State) (it : Item) (reason : ExitReason) : Prop :=
  t = { s with
    items := { s.items with live := s.items.live.filter (fun x => x.number ≠ it.number) }
    recipes := { s.recipes with
      store := s.recipes.store.set it.recipe.val
        { s.recipe it.recipe with refCount := (s.recipe it.recipe).refCount - 1 } }
    ports := t.ports } ∧
  s.Posted t .item it.number s.pos.lp (.itemExit reason it.flags it.slots)

/-- The head check of R47 finds nothing to do: there is no head, or it is LEAVING, or its exit point is ahead of LP. -/
def State.headSettled (s : State) : Prop :=
  ∀ it, s.items.live.head? = some it → it.state = .leaving ∨
    s.Ahead (it.base + s.line.exitDistance.setWidth 32)

/-- The head check (R47; `atExit` false) and the head's reaching of its exit point (R44; `atExit` true), each with all that
follows: at its exit the head's ARMED actions end LOST, and it becomes LEAVING where FIRING ones remain; where none do it is
removed with reason EXIT and the new head is checked; a head check that finds the exit point behind LP has it reached. -/
inductive State.HeadRuns : (atExit : Bool) → State → State → Prop
  | settled (s : State) (h : s.headSettled) : HeadRuns false s s
  | due (s t : State) (h : ¬s.headSettled) (more : HeadRuns true s t) : HeadRuns false s t
  | empty (s : State) (h : s.items.live = []) : HeadRuns true s s
  | leaves (s u : State) (it x : Item) (head : s.items.live.head? = some it) (lost : State.LostInTurn it.actions s u)
      (now : u.item? it.number = some x) (firing : x.actions ≠ []) :
      HeadRuns true s { u with items := { u.items with live := u.items.live.map (fun y =>
        if y.number = it.number then { y with state := .leaving } else y) } }
  | exits (s u v t : State) (it x : Item) (head : s.items.live.head? = some it)
      (lost : State.LostInTurn it.actions s u) (now : u.item? it.number = some x) (none : x.actions = [])
      (removed : u.Removed v it .exit) (more : HeadRuns false v t) : HeadRuns true s t

/-- Removal of an item as R46 has it, the head check of step 5 included when the item was the head. -/
def State.ItemRemoved (s t : State) (it : Item) (reason : ExitReason) : Prop :=
  ∃ u, s.Removed u it reason ∧
    if s.items.live.head?.any (fun y => y.number = it.number) then State.HeadRuns false u t else t = u

/-- Step 5 of an ending is due (R93): the item is LEAVING and this is its last action. -/
def State.Completes (s : State) (a : Action) (it : Item) : Prop :=
  s.item? a.item = some it ∧ it.state = .leaving ∧ ∀ x ∈ it.actions, x = a.handle

/-- An ending as R93 has it, step 5 included: the item that it completes is then removed with reason EXIT. -/
def State.EndedWhole (s t : State) (h : Handle) (a : Action) (outcome : ActionOutcome) : Prop :=
  ((∀ it, ¬s.Completes a it) → s.Ended t h a outcome) ∧
    ∀ it, s.Completes a it → ∃ u, s.Ended u h a outcome ∧ u.ItemRemoved t it .exit

/-- The actions that the handles of a list name, ended one after another with one outcome, step 5 of R93 included. -/
inductive State.EndsInTurn (outcome : ActionOutcome) : List Handle → State → State → Prop
  | done (s : State) : EndsInTurn outcome [] s s
  | stale (s t : State) (h : Handle) (rest : List Handle) (none : ∀ a, ¬s.Names h a)
      (more : EndsInTurn outcome rest s t) : EndsInTurn outcome (h :: rest) s t
  | one (s u t : State) (h : Handle) (rest : List Handle) (a : Action) (named : s.Names h a)
      (ended : s.EndedWhole u h a outcome) (more : EndsInTurn outcome rest u t) : EndsInTurn outcome (h :: rest) s t

/-- The items of a list purged one after another (R51 step 1): each one's actions cut short in action-list order, then its
removal with reason PURGED, without a head check. -/
inductive State.PurgedInTurn : List Item → State → State → Prop
  | done (s : State) : PurgedInTurn [] s s
  | one (s u v t : State) (it : Item) (rest : List Item) (cut : State.CutInTurn it.actions s u)
      (removed : u.Removed v it .purged) (more : PurgedInTurn rest v t) : PurgedInTurn (it :: rest) s t

/-- An item taken out (R49, R50): its actions cut short in action-list order, then its removal. -/
def State.TakenOut (s t : State) (it : Item) (reason : ExitReason) : Prop :=
  ∃ u, State.CutInTurn it.actions s u ∧ u.ItemRemoved t it reason

/-! ### The end of a session, in the words of the claims -/

/-- The wait list arbiters of several resources run one after another (R161 step 1). -/
inductive State.ArbitratesInTurn : List (Fin 33) → State → State → Prop
  | done (s : State) : ArbitratesInTurn [] s s
  | one (s u t : State) (r : Fin 33) (rest : List (Fin 33)) (n : Nat) (runs : State.Arbitrates r n s u)
      (more : ArbitratesInTurn rest u t) : ArbitratesInTurn (r :: rest) s t

/-- The orphan order (R102) over the bound actions whose poster the port is: ended CANCELLED in turn, or left with report
port NONE. The actions are those bound when step 2 of R161 begins (log 23, log 29). -/
def State.Orphaned (s t : State) (p : Port) : OrphanPolicy → Prop
  | .cancel => State.EndsInTurn .cancelled (s.postedBy p) s t
  | .keep => t = { s with actions := { s.actions with pool := t.actions.pool } } ∧
      ∀ i, t.entry i = ⟨(s.entry i).generation, (s.entry i).action.map (fun a =>
        if (s.entry i).generation ++ BitVec.ofFin (w := 8) i ∈ s.postedBy p then { a with report := none } else a)⟩

/-- The end of the session of port `p` with a reason other than DEVICE_RESET (R161, R162, R102, R155): what it gives back,
what it clears, and what stays; `steps` gives the order of R161, with the notices of each step (LEASE_GRANTED of the
arbiters, ACTION_END of the orphan order, HOLD_CHANGED). -/
structure State.SessionEnded (s t : State) (p : Port) (reason : EndReason) : Prop where
  port : t.port p =
    { s.port p with
      session := { attached := false, keepalive := 0, orphan := .keep, classes := ⟨false, false, false⟩,
                   attention := false, timer := none, lastEnd := reason }
      queue := [], lost := 0, slot := none
      nextSerial := if reason = .portReset then 0 else (s.port p).nextSerial }
  others : ∀ q, q ≠ p → (s.port q).OnlyNotices (t.port q)
  notNamed : ∀ r, (s.lease r).names p = false → t.lease r = s.lease r
  named : ∀ r, (s.lease r).names p = true → ∃ n u v, State.Arbitrates r n u v ∧
    u.lease r = ⟨(s.lease r).holders.filter (fun h => h.1 ≠ p), (s.lease r).waiters.filter (fun h => h.1 ≠ p)⟩ ∧
    t.lease r = v.lease r
  hold : t.hold =
    if reason = .expired ∧ s.line.holdMask &&& causeSessionLost ≠ 0 then
      (s.hold &&& ~~~causePort p) ||| causeSessionLost
    else s.hold &&& ~~~causePort p
  kept : (s.port p).session.orphan = .keep →
    t.items = s.items ∧ t.recipes = s.recipes ∧ t.channels = s.channels ∧ t.actions.freeList = s.actions.freeList ∧
    t.actions.schedules = s.actions.schedules ∧
    ∀ h, t.action? h = if h ∈ s.postedBy p then (s.action? h).map (fun a => { a with report := none }) else s.action? h
  cancelled : (s.port p).session.orphan = .cancel →
    (∀ h ∈ s.postedBy p, t.action? h = none) ∧ ∀ h a, t.action? h = some a → s.action? h = some a
  slots : ∀ y ∈ t.items.live, ∃ x ∈ s.items.live, y.number = x.number ∧ y.recipe = x.recipe ∧ y.slots = x.slots
  recipes : t.recipes.stage = s.recipes.stage ∧ t.recipes.current = s.recipes.current ∧
    ∀ i, (t.recipe i).valid = (s.recipe i).valid ∧ (t.recipe i).body = (s.recipe i).body
  configuration : ∀ c, (t.channel c).polarity = (s.channel c).polarity ∧ (t.channel c).minGap = (s.channel c).minGap ∧
    (t.channel c).policy = (s.channel c).policy ∧ (t.channel c).span = (s.channel c).span
  steps : ∃ u v w x : State,
    State.ArbitratesInTurn ((List.finRange 33).filter (fun r => (s.lease r).names p))
      { s.setPort p { s.port p with session := { (s.port p).session with attached := false, timer := none } } with
        leases := s.leases.map (fun e =>
          ⟨e.holders.filter (fun h => h.1 ≠ p), e.waiters.filter (fun h => h.1 ≠ p)⟩) } u ∧
    u.Orphaned v p (s.port p).session.orphan ∧
    v.HoldChanged w (v.hold &&& ~~~causePort p) .sessionEnd (some p) ∧
    (if reason = .expired then
      w.HoldChanged x (if s.line.holdMask &&& causeSessionLost = 0 then w.hold else w.hold ||| causeSessionLost)
        .raised none
    else x = w) ∧
    t = x.setPort p (t.port p)
  rest : t.rstn = s.rstn ∧ t.pos = s.pos ∧ t.line = s.line ∧ t.inputs = s.inputs ∧ t.free = s.free ∧
    t.pending = s.pending

/-! ### Actions posted, fired and decided, in the words of the claims -/

/-- The parameter block of POST_ACTION (spec 12), with `v` as the ignored value of a LATCH width, and `q` as the ignored
port of a condition that names none (R81). -/
def postBlock (n : Half) (c : Fin 16) (fire : Offset) (w : Width) (v : Offset) (x : Condition) (q : Byte) (tag : Half) :
    List Byte :=
  be16 n ++ [natByte c.val] ++ be24 fire ++ [widthKindCode w] ++ be24 (if w = .latch then v else widthValue w) ++
    [conditionKindCode x, x.port.elim q portCode] ++ be16 tag

/-- The length of a window for the conflict check (R84). -/
def State.windowOf (s : State) (c : Fin 16) : Width → Nat
  | .counts n => n.toNat
  | .time _ => (s.channel c).span.toNat
  | .latch => (s.channel c).span.toNat

/-- The anchor of a bound action's window (R84). -/
def State.anchorOf (s : State) (a : Action) : Position :=
  match a.state with
  | .on => a.start.getD s.pos.lp
  | .waitGap => s.pos.lp
  | _ => s.firePoint a

/-- The actions of a channel, in schedule order, whose windows overlap that of a new one (R84). -/
def State.conflicts (s : State) (c : Fin 16) (point : Position) (w : Width) : List Action :=
  (s.actionsOf (s.schedule c)).filter (fun a =>
    decide ((s.anchorOf a - point).toNat < s.windowOf c w ∨ (point - s.anchorOf a).toNat < s.windowOf c a.width))

/-- The rank of a poster: AUTO stands above every port (R86). -/
def State.rankOf (s : State) : Poster → Nat
  | .auto => 0
  | .station q => (s.line.ranks.get q).toNat

/-- The rank of the port stands above that of the poster (R86). -/
def State.outranks (s : State) (p : Port) (y : Poster) : Prop := s.rankOf (.station p) < s.rankOf y

/-- The conflict check of a channel's policy accepts an action of the poster, whose window overlaps those of `overlaps`,
with the actions `displaced` to be displaced (R85, R86). -/
def State.Accepts (s : State) (c : Fin 16) (poster : Poster) (overlaps : List Action) (displaced : List Handle) : Prop :=
  (overlaps = [] ∨ (s.channel c).policy = .merge) ∧ displaced = [] ∨
    overlaps ≠ [] ∧ (s.channel c).policy = .priority ∧ displaced = overlaps.map Action.handle ∧
      ∀ a ∈ overlaps, a.state ≠ .on ∧ a.state ≠ .waitGap ∧ s.rankOf poster < s.rankOf a.poster

/-- The handle's action stands in part 3 of its schedule: ARMED, sub-state AHEAD (R79). -/
def State.inPart3 (s : State) (h : Handle) : Bool := (s.action? h).any (fun a => a.state = .ahead)

/-- The handle's action stands in part 1 of its schedule: FIRING (R79). -/
def State.inPart1 (s : State) (h : Handle) : Bool := (s.action? h).any (fun a => a.state = .on ∨ a.state = .waitGap)

/-- The order of part 3 (R79): nearest first by forward distance from LP to the fire point, equal fire points in binding
order. -/
def State.standsBefore (s : State) (x y : Handle) : Prop :=
  ∀ a b, s.action? x = some a → s.action? y = some b →
    (s.firePoint a - s.pos.lp).toNat < (s.firePoint b - s.pos.lp).toNat ∨
      (s.firePoint a - s.pos.lp).toNat = (s.firePoint b - s.pos.lp).toNat ∧ a.order ≤ b.order

/-- The schedule of channel `c` in which the handle has been placed in part 3 (R79), the others as they were. -/
def State.PlacedIn (s t : State) (c : Fin 16) (h : Handle) : Prop :=
  (∀ d, d ≠ c → t.schedule d = s.schedule d) ∧ ∃ part3 : List Handle,
    t.schedule c = (s.schedule c).filter (fun x => x ≠ h && !t.inPart3 x) ++ part3 ∧
    part3.Perm (h :: (s.schedule c).filter (fun x => x ≠ h && t.inPart3 x)) ∧ part3.Pairwise t.standsBefore

/-- The binding of an action (R76, R83 steps 3 and 4): everything that it changes. -/
structure State.Bound (s t : State) (h : Handle) (a : Action) : Prop where
  entry : ∃ i, s.actions.freeList = i :: t.actions.freeList ∧
    h = (s.entry i).generation ++ BitVec.ofFin (w := 8) i ∧
    ∀ j, t.entry j = if j = i then ⟨(s.entry i).generation, some a⟩ else s.entry j
  items : t.items = { s.items with live := s.items.live.map (fun it =>
    if it.number = a.item then { it with actions := it.actions ++ [h] } else it) }
  schedules : s.PlacedIn t a.channel h
  rest : t = { s with actions := t.actions, items := t.items } ∧ t.actions.bindCount = s.actions.bindCount + 1

/-- Checks 3 to 7 of R82 pass for an item. -/
structure State.PostPasses (s : State) (it : Item) (fire : Offset) (x : Condition) : Prop where
  near : fire.toNat < s.line.exitDistance.toNat
  ahead : s.Ahead (it.base + fire.setWidth 32)
  voter : ∀ q, x.port = some q → (s.recipe it.recipe).body.voter.get q = true
  order : ∀ q, x.dependsOn (s.recipe it.recipe).body q →
    ((s.recipe it.recipe).body.decision.get q).toNat < fire.toNat
  limit : it.actions.length < 16

/-- The record of the bound action that the handle names becomes `b`; no other entry changes. -/
def State.Recorded (s t : State) (h : Handle) (b : Action) : Prop :=
  ∀ i, t.entry i = if i = handleIndex h then ⟨(s.entry i).generation, some b⟩ else s.entry i

/-- The action waits for the gap of its channel when it is handed over (R138, R141): in GAP, unless the very count that is
being taken has ended the channel's last ON window (log 15). -/
def State.waitsForGap (s : State) (c : Fin 16) : Prop := (s.channel c).out = .gap ∧ (s.channel c).gapFresh = false

/-- The ARMED action `a` that the handle `h` names becomes FIRING and is handed to its channel (R89, R90, R92, R138, R141,
R143): everything that this changes. Its handle moves to the end of part 1 (R79); the fire count rises by one; it turns ON,
with LP as its start position and a TIME width's timer started, or joins the wait set. -/
structure State.HandedOver (s t : State) (h : Handle) (a : Action) (late : Bool) : Prop where
  waits : s.waitsForGap a.channel →
    s.Recorded t h { a with state := .waitGap, handOver := some (s.firePoint a), late := a.late || late } ∧
    t.channels = s.channels.set a.channel.val { s.channel a.channel with
      fireCount := (s.channel a.channel).fireCount + 1, waitSet := (s.channel a.channel).waitSet ++ [h] }
  turnsOn : ¬s.waitsForGap a.channel →
    s.Recorded t h { a with
      state := .on, handOver := some (s.firePoint a), late := a.late || late, start := some s.pos.lp
      timer := match a.width with
        | .time x => some x
        | _ => none } ∧
    t.channels = s.channels.set a.channel.val { s.channel a.channel with
      fireCount := (s.channel a.channel).fireCount + 1, onSet := (s.channel a.channel).onSet ++ [h], out := .on
      gapTimer := if (s.channel a.channel).out = .gap then none else (s.channel a.channel).gapTimer
      gapFresh := if (s.channel a.channel).out = .gap then false else (s.channel a.channel).gapFresh }
  schedules : ∀ c, t.schedule c =
    if c = a.channel then
      (s.schedule c).filter (fun x => x ≠ h && s.inPart1 x) ++ h :: (s.schedule c).filter (fun x => x ≠ h && !s.inPart1 x)
    else s.schedule c
  rest : t = { s with channels := t.channels, actions := t.actions } ∧ t.actions.freeList = s.actions.freeList ∧
    t.actions.bindCount = s.actions.bindCount

/-- The fire point of the ARMED AHEAD action `a` that the handle `h` names is reached (R89): with its condition TRUE it fires;
UNRESOLVED it becomes OVERDUE, at the end of part 2 of its schedule (R79). -/
structure State.FireReached (s t : State) (h : Handle) (a : Action) : Prop where
  fires : a.condState = .holds → s.HandedOver t h a false
  overdue : a.condState = .unresolved →
    s.Recorded t h { a with state := .overdue } ∧
    (∀ c, t.schedule c =
      if c = a.channel then
        (s.schedule c).filter (fun x => x ≠ h && !s.inPart3 x) ++ h :: (s.schedule c).filter (fun x => x ≠ h && s.inPart3 x)
      else s.schedule c) ∧
    t = { s with actions := t.actions } ∧ t.actions.freeList = s.actions.freeList ∧
    t.actions.bindCount = s.actions.bindCount
  never : a.condState = .fails → t = s

/-- The gaps that a part of the count being taken, from `s` to `u`, has started are marked as started by this count (R138,
R141, log 15): those of the channels ON before it and in GAP with no action waiting after it. Nothing else changes. -/
def State.GapsMarked (s u t : State) : Prop :=
  t = { u with channels := t.channels } ∧ ∀ c, t.channel c =
    if (s.channel c).out = .on ∧ (u.channel c).out = .gap ∧ (u.channel c).waitSet = [] then
      { u.channel c with gapFresh := true }
    else u.channel c

/-- The window of a COUNTS action ends at its end point (R95): it ends DONE, with the completion of a LEAVING item. A gap that
this starts is marked as started by the count being taken (R141, log 15). -/
def State.WindowEnded (s t : State) (h : Handle) (a : Action) : Prop :=
  ∃ u, s.EndedWhole u h a .done ∧ s.GapsMarked u t

/-- The UNRESOLVED actions of a list decided again from the slots, one after another (R80, R111 step 3): TRUE is stored; one
decided FALSE ends SKIPPED (R90); the others are left. -/
inductive State.DecidedInTurn (slots : PerPort Slot) : List Handle → State → State → Prop
  | done (s : State) : DecidedInTurn slots [] s s
  | left (s t : State) (h : Handle) (rest : List Handle)
      (keep : ∀ a, s.Names h a → a.condState ≠ .unresolved ∨ decideCondition slots a.condition = .unresolved)
      (more : DecidedInTurn slots rest s t) : DecidedInTurn slots (h :: rest) s t
  | holds (s u t : State) (h : Handle) (rest : List Handle) (a : Action) (named : s.Names h a)
      (unresolved : a.condState = .unresolved) (decides : decideCondition slots a.condition = .holds)
      (stored : s.Recorded u h { a with condState := .holds } ∧
        u = { s with actions := { s.actions with pool := u.actions.pool } })
      (more : DecidedInTurn slots rest u t) : DecidedInTurn slots (h :: rest) s t
  | fails (s u v t : State) (h : Handle) (rest : List Handle) (a : Action) (named : s.Names h a)
      (unresolved : a.condState = .unresolved) (decides : decideCondition slots a.condition = .fails)
      (stored : s.Recorded u h { a with condState := .fails } ∧
        u = { s with actions := { s.actions with pool := u.actions.pool } })
      (ended : u.EndedWhole v h { a with condState := .fails } .skipped)
      (more : DecidedInTurn slots rest v t) : DecidedInTurn slots (h :: rest) s t

/-- The OVERDUE actions of a list fired with LATE, one after another (R90). -/
inductive State.FiredInTurn : List Handle → State → State → Prop
  | done (s : State) : FiredInTurn [] s s
  | left (s t : State) (h : Handle) (rest : List Handle) (keep : ∀ a, s.Names h a → a.state ≠ .overdue)
      (more : FiredInTurn rest s t) : FiredInTurn (h :: rest) s t
  | one (s u t : State) (h : Handle) (rest : List Handle) (a : Action) (named : s.Names h a)
      (overdue : a.state = .overdue) (fires : s.HandedOver u h a true) (more : FiredInTurn rest u t) :
      FiredInTurn (h :: rest) s t

/-- The handles of a list whose actions meet a condition, as they stand in the schedules: the order of hand-overs to one
channel (R79, R138; log 38). -/
def State.scheduledWhere (s : State) (hs : List Handle) (f : Action → Bool) : List Handle :=
  (List.finRange 16).flatMap (fun c => (s.schedule c).filter (fun h => h ∈ hs && (s.action? h).any f))

/-- A close as one event (R111): the slots of the item become `slots`; a HOLD default taken raises LATE_VERDICT; the item's
UNRESOLVED actions are decided, those decided FALSE end SKIPPED and the OVERDUE ones decided TRUE fire with LATE; with no
voter slot OPEN any more ITEM_DECIDED follows (R115). -/
def State.SlotsClosed (s t : State) (it : Item) (slots : PerPort Slot) (held : Bool) (source : CloseSource) : Prop :=
  ∃ u v w : State,
    ({ s with items := { s.items with live := s.items.live.map (fun y =>
      if y.number = it.number then { y with slots := slots } else y) } } : State).HoldChanged u
        (if held = true ∧ s.line.holdMask &&& 0x0080 ≠ 0 then s.hold ||| 0x0080 else s.hold) .raised none ∧
    State.DecidedInTurn slots it.actions u v ∧
    State.FiredInTurn (u.scheduledWhere it.actions (fun a =>
      a.state = .overdue ∧ a.condState = .unresolved ∧ decideCondition slots a.condition = .holds)) v w ∧
    ((∃ q y, slots.get q = .opened y) ∨ w.item? it.number = none → t = w) ∧
    ((∀ q y, slots.get q ≠ .opened y) → w.item? it.number ≠ none →
      t = { w with ports := t.ports } ∧ ∃ anyReject holdDefault : Bool,
        (anyReject = true ↔ ∃ q code src, slots.get q = .closed .reject code src) ∧
        (holdDefault = true ↔ ∃ q v code, slots.get q = .closed v code .byDefault ∧
          (s.recipe it.recipe).body.default_.get q = .hold) ∧
        w.Posted t .item it.number s.pos.lp (.itemDecided slots anyReject holdDefault source))

/-- A forced close of an item (R113): every OPEN voter slot closes REJECT with code 0 and source FORCED, together; with none
OPEN nothing is done. -/
def State.ForceClosed (s t : State) (it : Item) : Prop :=
  let force := fun (x : Slot) => match x with
    | .opened _ => Slot.closed .reject 0 .forced
    | y => y
  ((∀ q y, it.slots.get q ≠ .opened y) → t = s) ∧
    ((∃ q y, it.slots.get q = .opened y) →
      s.SlotsClosed t it ⟨force it.slots.a, force it.slots.b, force it.slots.c⟩ false .forced)

/-- The decision point of a port's slot of an item is reached (R110 to R112): an OPEN slot closes with its pending verdict and
source PORT, or with the recipe's default, source DEFAULT and code 0, HOLD closing as REJECT; any other is left. -/
def State.DecisionReached (s t : State) (it : Item) (p : Port) : Prop :=
  let default := (s.recipe it.recipe).body.default_.get p
  ((∀ pending, it.slots.get p ≠ .opened pending) → t = s) ∧
    (it.slots.get p = .opened none →
      s.SlotsClosed t it (it.slots.set p (.closed (if default = .accept then .accept else .reject) 0 .byDefault))
        (default = .hold) .byDefault) ∧
    ∀ v code, it.slots.get p = .opened (some (v, code)) →
      s.SlotsClosed t it (it.slots.set p (.closed v code .byPort)) false .byPort

/-! ### The points of items and of the Stage Queue, in the words of the claims -/

/-- The head of the Stage Queue applied, steps 1 to 3 of R71. -/
def State.StageApplied (s t : State) (e : StageEntry) (rest : List StageEntry) : Prop :=
  s.recipes.stage = e :: rest ∧
    t = { s with recipes := { s.recipes with current := e.recipe, stage := rest }, ports := t.ports } ∧
    s.Posted t .line 0 s.pos.lp (.recipeSwitched e.recipe s.recipes.current e.trigger rest.length)

/-- The check of a new head of the Stage Queue (R70, R71 step 4): an AT_POSITION head whose point is behind LP is applied at
once, and the next head is checked. -/
inductive State.StageChecked : State → State → Prop
  | settled (s : State) (h : ∀ i x rest, s.recipes.stage = ⟨i, .atPosition x⟩ :: rest → s.Ahead x) : StageChecked s s
  | applied (s u t : State) (i : Fin 8) (x : Position) (rest : List StageEntry) (behind : ¬s.Ahead x)
      (applied : s.StageApplied u ⟨i, .atPosition x⟩ rest) (more : StageChecked u t) : StageChecked s t

/-- An ENTERING item reaches its jam point (R43): it becomes TRACKED with the flag JAM, JAM is posted, and the cause raised. -/
def State.JamReached (s t : State) (it : Item) : Prop :=
  let body := (s.recipe it.recipe).body
  let length := if body.lengthMax = 0 then s.line.jamLength else body.lengthMax
  ∃ u : State,
    u = { s with
      items := { s.items with live := s.items.live.map (fun y =>
        if y.number = it.number then { y with state := .tracked, flags := { y.flags with jam := true } } else y) }
      ports := u.ports } ∧
    s.Posted u .item it.number (it.entry + length.setWidth 32) (.jam length) ∧
    u.HoldChanged t (if s.line.holdMask &&& causeJam = 0 then s.hold else s.hold ||| causeJam) .raised none

/-- The miss end of an unmarked CHECKPOINT input is reached for an item (R130): the mark MISSED, the flag, CHECKPOINT_MISS, and
then the on-miss action of the input (R131). -/
def State.MissReached (s t : State) (it : Item) (k : Fin 8) : Prop :=
  let i := s.input k
  ∃ u : State,
    u = { s with
      items := { s.items with live := s.items.live.map (fun y =>
        if y.number = it.number then
          { y with marks := y.marks ++ [⟨k, .missed⟩], flags := { y.flags with missed := true } }
        else y) }
      ports := u.ports } ∧
    s.Posted u .item it.number (it.base + i.nominal.setWidth 32 + i.window.setWidth 32)
      (.checkpointMiss k i.onMiss (it.marks.length + 1) it.correction) ∧
    match i.onMiss with
    | .note => t = u
    | .hold => u.HoldChanged t (if s.line.holdMask &&& causeCheckpointMiss = 0 then s.hold else
        s.hold ||| causeCheckpointMiss) .raised none
    | .reject => ∃ y, u.item? it.number = some y ∧ u.ForceClosed t y
    | .remove => ∃ y, u.item? it.number = some y ∧ u.TakenOut t y .missed

/-- The miss end of a CHECKPOINT input reached by a count (R130): a gap that an ABORTED window of the item taken out starts is
marked as started by the count (R138, log 15). -/
def State.MissTaken (s t : State) (it : Item) (k : Fin 8) : Prop := ∃ u, s.MissReached u it k ∧ s.GapsMarked u t

/-- The points of an item that are watched (R8), each with its offset and its position: the jam point of an ENTERING item
(R43), the decision point of each OPEN slot (R106), the miss end of each unmarked CHECKPOINT input (R129), the exit point of
a head that is not LEAVING (R44). -/
inductive State.Watches (s : State) (it : Item) : (offset : Nat) → Position → ItemPoint → Prop
  | jam (h : it.state = .entering) (length : Offset)
      (eq : length = if (s.recipe it.recipe).body.lengthMax = 0 then s.line.jamLength else (s.recipe it.recipe).body.lengthMax) :
      Watches s it length.toNat (it.entry + length.setWidth 32) .jam
  | decision (p : Port) (pending : Option (Verdict × BitVec 6)) (h : it.slots.get p = .opened pending) :
      Watches s it ((s.recipe it.recipe).body.decision.get p).toNat
        (it.base + ((s.recipe it.recipe).body.decision.get p).setWidth 32) (.decision p)
  | missEnd (k : Fin 8) (h : (s.input k).role = .checkpoint) (unmarked : ∀ m ∈ it.marks, m.input ≠ k) :
      Watches s it ((s.input k).nominal.toNat + (s.input k).window.toNat)
        (it.base + (s.input k).nominal.setWidth 32 + (s.input k).window.setWidth 32) (.missEnd k)
  | exit (head : s.items.live.head?.any (fun y => y.number = it.number)) (h : it.state ≠ .leaving) :
      Watches s it s.line.exitDistance.toNat (it.base + s.line.exitDistance.setWidth 32) .exit

/-- A watched point of an item is to be acted on as behind LP (R40, R126): after a correction (`created` absent) each such
point but the jam point; at a creation with entry position `created`, each one, unless the entry position is itself ahead of
LP (log 14). -/
def State.Behind (s : State) (created : Option Position) (n : Half) (offset : Nat) (w : ItemPoint) : Prop :=
  ∃ it x, s.item? n = some it ∧ s.Watches it offset x w ∧ ¬s.Ahead x ∧
    match created with
    | none => w ≠ .jam
    | some entry => ¬s.Ahead entry

/-- The points of an item that are behind LP acted on in increasing order of offset, of equal offsets either first (R40,
R126, R127), each as if it were reached, until none is left. -/
inductive State.PointsWalked (created : Option Position) (n : Half) : State → State → Prop
  | done (s : State) (h : ∀ offset w, ¬s.Behind created n offset w) : PointsWalked created n s s
  | next (s t : State) (free offset : Nat) (w : ItemPoint) (behind : s.Behind created n offset w)
      (least : ∀ o v, s.Behind created n o v → offset ≤ o)
      (more : PointsWalked created n (({ s with free := free } : State).actOnPoint n w) t) : PointsWalked created n s t

/-- The ARMED actions of a list whose fire points lie ahead of LP placed again in part 3 of their schedules, one after another,
as AHEAD (R101, R126 step 1); the others are left. -/
inductive State.ReplacedInTurn : List Handle → State → State → Prop
  | done (s : State) : ReplacedInTurn [] s s
  | left (s t : State) (h : Handle) (rest : List Handle)
      (keep : ∀ a, s.Names h a → a.state = .on ∨ a.state = .waitGap ∨ ¬s.Ahead (s.firePoint a))
      (more : ReplacedInTurn rest s t) : ReplacedInTurn (h :: rest) s t
  | one (s u t : State) (h : Handle) (rest : List Handle) (a : Action) (named : s.Names h a)
      (armed : a.state = .ahead ∨ a.state = .overdue) (ahead : s.Ahead (s.firePoint a))
      (placed : s.Recorded u h { a with state := .ahead } ∧ s.PlacedIn u a.channel h ∧
        u = { s with actions := u.actions } ∧ u.actions.freeList = s.actions.freeList ∧
        u.actions.bindCount = s.actions.bindCount)
      (more : ReplacedInTurn rest u t) : ReplacedInTurn (h :: rest) s t

/-- The fire points of the ARMED AHEAD actions of a list treated as reached, one after another (R101, R89). -/
inductive State.ReachedInTurn : List Handle → State → State → Prop
  | done (s : State) : ReachedInTurn [] s s
  | left (s t : State) (h : Handle) (rest : List Handle) (keep : ∀ a, s.Names h a → a.state ≠ .ahead)
      (more : ReachedInTurn rest s t) : ReachedInTurn (h :: rest) s t
  | one (s u t : State) (h : Handle) (rest : List Handle) (a : Action) (named : s.Names h a) (ahead : a.state = .ahead)
      (reached : s.FireReached u h a) (more : ReachedInTurn rest u t) : ReachedInTurn (h :: rest) s t

/-- The ARMED actions of an item after its base has moved (R101, R126 step 1): those whose fire points are ahead of LP placed
again in action-list order, then those whose fire points are behind it acted on in schedule order (log 38). -/
def State.ActionsReplaced (s t : State) (actions : List Handle) : Prop :=
  ∃ u, State.ReplacedInTurn actions s u ∧
    State.ReachedInTurn (s.scheduledWhere actions (fun a => a.state = .ahead &&
      !decide (1 ≤ (s.firePoint a - s.pos.lp).toNat ∧ (s.firePoint a - s.pos.lp).toNat ≤ 2147483647))) u t

/-! ### Counts, in the words of the claims -/

/-- What a count has to act on at this moment (R8, R9, R10): the motion of a line that is STILL; the excursion that begins; each
watched point of an item that equals LP; an AT_POSITION head of the Stage Queue whose point is LP; on each channel the first
ARMED AHEAD action in schedule order whose fire point is LP, and the first ON COUNTS action whose end point is LP. -/
inductive State.Stands (s : State) : Direction → CountTask → Prop
  | motion (d : Direction) (h : s.pos.motion = .still) : Stands s d .motion
  | excursion (h : s.pos.excursion = false) (far : s.line.reverseAllowance.toNat < (s.pos.hwp - s.pos.lp).toNat) :
      Stands s .backward .excursion
  | point (it : Item) (live : it ∈ s.items.live) (offset : Nat) (w : ItemPoint) (h : s.Watches it offset s.pos.lp w) :
      Stands s .forward (.point it.number w)
  | stage (i : Fin 8) (rest : List StageEntry) (h : s.recipes.stage = ⟨i, .atPosition s.pos.lp⟩ :: rest) :
      Stands s .forward .stage
  | fire (c : Fin 16) (a : Action) (h : ((s.actionsOf (s.schedule c)).filter (fun a =>
      a.state = .ahead ∧ a.condState ≠ .fails ∧ s.firePoint a = s.pos.lp)).head? = some a) :
      Stands s .forward (.fire a.handle)
  | windowEnd (c : Fin 16) (a : Action) (h : ((s.actionsOf (s.schedule c)).filter (fun a =>
      match a.state, a.start, a.width with
      | .on, some x, .counts n => x + n.setWidth 32 = s.pos.lp
      | _, _, _ => false)).head? = some a) : Stands s .forward (.windowEnd a.handle)

/-- A count acts on the tasks of a list one after another, each of them standing when it is taken; which of those that stand
is taken next is an open choice (log 5, log 6). -/
inductive State.CountRuns (d : Direction) : List CountTask → State → State → Prop
  | done (s : State) : CountRuns d [] s s
  | next (s t : State) (task : CountTask) (rest : List CountTask) (free : Nat) (stands : s.Stands d task)
      (more : CountRuns d rest (({ s with free := free } : State).doTask d task) t) : CountRuns d (task :: rest) s t

/-- The place of a phase pair in the forward sequence 00, 10, 11, 01 (R1). -/
def phasePlace : Bool → Bool → Fin 4
  | false, false => 0
  | true, false => 1
  | true, true => 2
  | false, true => 3

/-- The quadrature mode counts a step of one place between these pairs (R1). -/
def EncoderMode.counts : EncoderMode → (refA refB newA : Bool) → Prop
  | .quad4, _, _, _ => True
  | .quad2, refA, _, newA => refA ≠ newA
  | .quad1, refA, refB, newA => refA ≠ newA ∧ refB = false
  | _, _, _, _ => False

/-- The Position Counter before and after one count, whatever points it reaches (R6, R9, R10, R11). -/
structure PositionCounter.Counted (p q : PositionCounter) (d : Direction) (line : LineConfig) : Prop where
  lp : q.lp = if d = .forward then p.lp + 1 else p.lp - 1
  hwp : q.hwp = if d = .forward ∧ p.lp = p.hwp then p.lp + 1 else p.hwp
  excursion : q.excursion = true ↔
    if d = .forward then p.excursion = true ∧ q.lp ≠ q.hwp
    else p.excursion = true ∨ line.reverseAllowance.toNat < (p.hwp - q.lp).toNat
  timer : q.standstillTimer = some line.standstillTime
  motion : d = .backward → q.motion = .moving
  rest : q.errorCount = p.errorCount ∧ q.refA = p.refA ∧ q.refB = p.refB ∧ q.phaseA = p.phaseA ∧ q.phaseB = p.phaseB

/-- What a count, with everything that it reaches, leaves alone. -/
structure State.CountKeeps (s t : State) : Prop where
  world : t.rstn = s.rstn ∧ t.line = s.line ∧ t.inputs = s.inputs ∧ t.leases = s.leases ∧ t.pending = s.pending
  ports : ∀ q, (s.port q).OnlyNotices (t.port q)
  recipes : ∀ i, (t.recipe i).valid = (s.recipe i).valid ∧ (t.recipe i).body = (s.recipe i).body

/-- One count taken in direction `d` before inversion (R3): its effect on the position, and, through `State.takeCount`, the
points that it reaches. -/
def State.CountTaken (s t : State) (d : Direction) : Prop :=
  let after : Direction := if s.line.invert then (if d = .forward then .backward else .forward) else d
  s.pos.Counted t.pos after s.line ∧ s.CountKeeps t ∧ t = s.takeCount after

/-- The decoding of the accepted levels against the reference (R1, R2, R3, R5): what it does from a state `s` whose filters
have acted. -/
structure State.DecodesTo (s t : State) : Prop where
  still : s.pos.refA = s.pos.phaseA.accepted → s.pos.refB = s.pos.phaseB.accepted → t = s
  quadrature : s.line.encoderMode ≠ .stepDir → s.line.encoderMode ≠ .upDown →
    let u := { s with pos := { s.pos with refA := s.pos.phaseA.accepted, refB := s.pos.phaseB.accepted } }
    let places := phasePlace u.pos.refA u.pos.refB - phasePlace s.pos.refA s.pos.refB
    let counts := s.line.encoderMode.counts s.pos.refA s.pos.refB u.pos.refA
    (places = 1 → counts → u.CountTaken t .forward) ∧ (places = 3 → counts → u.CountTaken t .backward) ∧
    (places = 1 ∨ places = 3 → ¬counts → t = u) ∧
    (places = 2 → ∃ v : State,
      let error := if s.pos.errorCount = 65535 then s.pos.errorCount else s.pos.errorCount + 1
      v = { u with pos := { u.pos with errorCount := error }, ports := v.ports } ∧
      u.Posted v .line 0 s.pos.lp (.encoderError error) ∧
      v.HoldChanged t (if s.line.holdMask &&& 0x0200 = 0 then s.hold else s.hold ||| 0x0200) .raised none)
  stepDirection : s.line.encoderMode = .stepDir →
    let u := { s with pos := { s.pos with refA := s.pos.phaseA.accepted, refB := s.pos.phaseB.accepted } }
    if s.pos.refA = false ∧ u.pos.refA = true then
      u.CountTaken t (if u.pos.refB then .backward else .forward)
    else t = u
  upDown : s.line.encoderMode = .upDown →
    let u := { s with pos := { s.pos with refA := s.pos.phaseA.accepted, refB := s.pos.phaseB.accepted } }
    let up := s.pos.refA = false ∧ u.pos.refA = true
    let down := s.pos.refB = false ∧ u.pos.refB = true
    (up → ¬down → u.CountTaken t .forward) ∧ (¬up → down → u.CountTaken t .backward) ∧ (¬up → ¬down → t = u) ∧
    (up → down → ∃ (n : Nat) (p : PositionCounter), u.CountKeeps t ∧
      (u.pos.Counted p .forward s.line ∧ p.Counted t.pos .backward s.line ∧
          t = (({ u with free := n } : State).takeCount .forward).takeCount .backward ∨
        u.pos.Counted p .backward s.line ∧ p.Counted t.pos .forward s.line ∧
          t = (({ u with free := n } : State).takeCount .backward).takeCount .forward))

/-! ### Edges of the detect inputs, in the words of the claims -/

/-- The item is a candidate for an edge at `x` on input `k` with slip `d` (R123, R124). -/
def Item.CandidateAt (it : Item) (k : Fin 8) (i : Input) (x : Position) (d : Int) : Prop :=
  (∀ m ∈ it.marks, m.input ≠ k) ∧ -(i.window.toNat : Int) ≤ d ∧ d ≤ i.window.toNat ∧
    x = it.base + i.nominal.setWidth 32 + BitVec.ofInt 32 d

/-- R36: a leading edge at `x` is far enough ahead of the newest item's entry position. -/
def State.clearOfNewest (s : State) (x : Position) : Prop :=
  ∀ it, s.items.live.getLast? = some it → 1 ≤ (x - it.entry).toNat ∧ (x - it.entry).toNat ≤ 2147483647 ∧
    s.line.entryBlanking.toNat ≤ (x - it.entry).toNat

/-- No point of an item created at `x` is behind LP (R40): `x` is ahead of LP, or the belt has run less than every offset
since the edge. -/
def State.createdClear (s : State) (x : Position) : Prop :=
  let body := (s.recipe s.recipes.current).body
  let run := (s.pos.lp - x).toNat
  (1 ≤ (x - s.pos.lp).toNat ∧ (x - s.pos.lp).toNat ≤ 2147483647) ∨
    run < (if body.lengthMax = 0 then s.line.jamLength else body.lengthMax).toNat ∧ run < s.line.exitDistance.toNat ∧
    (∀ q, body.voter.get q = true → run < (body.decision.get q).toNat) ∧
    ∀ k, (s.input k).role = .checkpoint → run < (s.input k).nominal.toNat + (s.input k).window.toNat

/-- The templates of a recipe offered one after another for the new item `n` with entry position `x` and slots `slots` (R39,
R87): how many are created and how many missing, whether one found no free entry, and the handles of those whose condition is
FALSE. One is created when its fire point is ahead of LP, an entry is free and, unless its condition is FALSE, the conflict
check accepts it for AUTO; the actions to be displaced are displaced first. -/
inductive State.TemplatesOffered (n : Half) (x : Position) (slots : PerPort Slot) :
    List Template → State → State → (created missing : Nat) → (full : Bool) → (skipped : List Handle) → Prop
  | done (s : State) : TemplatesOffered n x slots [] s s 0 0 false []
  | behind (s t : State) (y : Template) (rest : List Template) (c m : Nat) (f : Bool) (k : List Handle)
      (behind : ¬s.Ahead (x + y.fire.setWidth 32)) (more : TemplatesOffered n x slots rest s t c m f k) :
      TemplatesOffered n x slots (y :: rest) s t c (m + 1) f k
  | noEntry (s t : State) (y : Template) (rest : List Template) (c m : Nat) (f : Bool) (k : List Handle)
      (ahead : s.Ahead (x + y.fire.setWidth 32)) (none : s.actions.freeList = [])
      (more : TemplatesOffered n x slots rest s t c m f k) :
      TemplatesOffered n x slots (y :: rest) s t c (m + 1) true k
  | refused (s t : State) (y : Template) (rest : List Template) (c m : Nat) (f : Bool) (k : List Handle)
      (ahead : s.Ahead (x + y.fire.setWidth 32)) (entry : s.actions.freeList ≠ [])
      (open_ : decideCondition slots y.condition ≠ .fails)
      (refused : ∀ hs, ¬s.Accepts y.channel .auto (s.conflicts y.channel (x + y.fire.setWidth 32) y.width) hs)
      (more : TemplatesOffered n x slots rest s t c m f k) :
      TemplatesOffered n x slots (y :: rest) s t c (m + 1) f k
  | bound (s d u t : State) (y : Template) (rest : List Template) (c m : Nat) (f : Bool) (k hs : List Handle) (h : Handle)
      (ahead : s.Ahead (x + y.fire.setWidth 32)) (entry : s.actions.freeList ≠ [])
      (accepted : decideCondition slots y.condition = .fails ∧ hs = [] ∨
        decideCondition slots y.condition ≠ .fails ∧
          s.Accepts y.channel .auto (s.conflicts y.channel (x + y.fire.setWidth 32) y.width) hs)
      (displaced : State.EndsInTurn .displaced hs s d)
      (bound : d.Bound u h
        { handle := h, item := n, channel := y.channel, poster := .auto, report := y.report, fire := y.fire
          width := y.width, condition := y.condition, condState := decideCondition slots y.condition, tag := y.tag
          state := .ahead, start := none, handOver := none, timer := none, late := false, delayed := false
          order := d.actions.bindCount })
      (more : TemplatesOffered n x slots rest u t c m f k) :
      TemplatesOffered n x slots (y :: rest) s t (c + 1) m f
        (if decideCondition slots y.condition = .fails then h :: k else k)

/-- The creation of an item by a leading edge latched at `x` (R38, R40, R69): a NEXT_ENTRY head of the Stage Queue is applied;
the record of the first free number joins the table under the current recipe, whose reference count rises by one; its templates
are offered, the missing ones counted, and ACTION_FULL raised once when one found no free entry; ITEM_ENTER is posted; the
auto-actions whose condition is FALSE end SKIPPED; the points behind LP are acted on; and the head that step 1 brought forward
is checked. -/
def State.Created (s t : State) (x : Position) : Prop :=
  let next := fun (n : Half) => if n = 65535 then 1 else n + 1
  let opened := fun (v : Bool) => if v then Slot.opened none else .absent
  let staged := ∃ i rest, s.recipes.stage = ⟨i, .nextEntry⟩ :: rest
  ∃ (u v w y z e g : State) (n : Half) (j created missing : Nat) (full : Bool) (skipped : List Handle),
    let body := (u.recipe u.recipes.current).body
    let slots : PerPort Slot := ⟨opened body.voter.a, opened body.voter.b, opened body.voter.c⟩
    (∀ i rest, s.recipes.stage = ⟨i, .nextEntry⟩ :: rest → s.StageApplied u ⟨i, .nextEntry⟩ rest) ∧ (¬staged → u = s) ∧
    n = next^[j] s.items.nextNumber ∧ (∀ it ∈ s.items.live, it.number ≠ n) ∧
    (∀ i, i < j → ∃ it ∈ s.items.live, it.number = next^[i] s.items.nextNumber) ∧
    v = { u with
      items := { u.items with
        live := u.items.live ++ [
          { number := n, state := .entering, entry := x, length := none, correction := 0, recipe := u.recipes.current
            slots := slots, marks := [], actions := [], flags := ⟨false, false, false, false⟩, missing := 0 }]
        nextNumber := next n, trailing := .item n }
      recipes := { u.recipes with
        store := u.recipes.store.set u.recipes.current.val
          { u.recipe u.recipes.current with refCount := (u.recipe u.recipes.current).refCount + 1 } } } ∧
    State.TemplatesOffered n x slots body.templates v w created missing full skipped ∧
    ({ w with items := { w.items with live := w.items.live.map (fun it =>
      if it.number = n then { it with missing := missing, flags := { it.flags with incomplete := missing ≠ 0 } }
      else it) } } : State).HoldChanged y
        (if full = true ∧ s.line.holdMask &&& causeActionFull ≠ 0 then w.hold ||| causeActionFull else w.hold)
        .raised none ∧
    z = { y with ports := z.ports } ∧ y.Posted z .item n x (.itemEnter u.recipes.current body.voter created missing) ∧
    State.EndsInTurn .skipped skipped z e ∧ State.PointsWalked (some x) n e g ∧
    (staged → State.StageChecked g t) ∧ (¬staged → t = g)

/-- An edge of the ENTRY input acts on the Item Table (R36 to R38, R41, R42). -/
structure State.EntryEdge (s t : State) (leading : Bool) (x : Position) : Prop where
  reEntry : leading = true → ∀ newest, s.items.live.getLast? = some newest → ¬s.clearOfNewest x →
    let count := if s.items.reEntry = 65535 then s.items.reEntry else s.items.reEntry + 1
    t = { s with items := { s.items with reEntry := count, trailing := .discard }, ports := t.ports } ∧
      s.Posted t .item newest.number x (.reEntryIgnored count)
  full : leading = true → s.clearOfNewest x → 64 ≤ s.items.live.length →
    let count := if s.items.entryLost = 65535 then s.items.entryLost else s.items.entryLost + 1
    ∃ u : State, u = { s with items := { s.items with entryLost := count, trailing := .discard }, ports := u.ports } ∧
      s.Posted u .item 0 x (.entryLost count) ∧
      u.HoldChanged t (if s.line.holdMask &&& 0x0010 = 0 then s.hold else s.hold ||| 0x0010) .raised none
  created : leading = true → s.clearOfNewest x → s.items.live.length < 64 →
    s.nextEntryStaged = false → (s.recipe s.recipes.current).body.templates = [] → s.createdClear x →
    let body := (s.recipe s.recipes.current).body
    let next := fun (n : Half) => if n = 65535 then 1 else n + 1
    let opened := fun (v : Bool) => if v then Slot.opened none else .absent
    ∃ (n : Half) (j : Nat), n = next^[j] s.items.nextNumber ∧ (∀ it ∈ s.items.live, it.number ≠ n) ∧
      (∀ i, i < j → ∃ it ∈ s.items.live, it.number = next^[i] s.items.nextNumber) ∧
      t = { s with
        items := { s.items with
          live := s.items.live ++ [
            { number := n, state := .entering, entry := x, length := none, correction := 0, recipe := s.recipes.current
              slots := ⟨opened body.voter.a, opened body.voter.b, opened body.voter.c⟩
              marks := [], actions := [], flags := ⟨false, false, false, false⟩, missing := 0 }]
          nextNumber := next n, trailing := .item n }
        recipes := { s.recipes with
          store := s.recipes.store.set s.recipes.current.val
            { s.recipe s.recipes.current with refCount := (s.recipe s.recipes.current).refCount + 1 } }
        ports := t.ports } ∧
      s.Posted t .item n x (.itemEnter s.recipes.current body.voter 0 0)
  creates : leading = true → s.clearOfNewest x → s.items.live.length < 64 → s.Created t x
  numbering : leading = true → s.clearOfNewest x → s.items.live.length < 64 →
    ∃ n : Half, (∀ it ∈ s.items.live, it.number ≠ n) ∧ t.items.trailing = .item n ∧
      t.items.nextNumber = if n = 65535 then 1 else n + 1
  ignored : leading = false → (∀ it, s.items.trailing = .item it.number → s.item? it.number = some it →
    it.state ≠ .entering) → t = { s with items := { s.items with trailing := .nothing } }
  applied : leading = false → ∀ it, s.items.trailing = .item it.number → s.item? it.number = some it →
    it.state = .entering →
    let body := (s.recipe it.recipe).body
    let run := (x - it.entry).toNat
    let reversed := 2147483648 ≤ run
    let short := body.lengthMin ≠ 0 ∧ run < body.lengthMin.toNat
    let long := body.lengthMax ≠ 0 ∧ body.lengthMax.toNat < run
    let length := if reversed then 0 else x - it.entry
    let measured := fun (fault : Bool) => { s.items with
      trailing := .nothing
      live := s.items.live.map (fun y => if y.number = it.number then
        { y with length := some length, state := .tracked
                 flags := { y.flags with lengthFault := y.flags.lengthFault || fault } } else y) }
    (¬reversed → ¬short → ¬long → t = { s with items := measured false }) ∧
    ((reversed ∨ short ∨ long) → ∃ u : State, u = { s with items := measured true, ports := u.ports } ∧
      s.Posted u .item it.number x (.lengthFault length
        (if reversed then .reversed else if short then .minimum else .maximum) body.policy) ∧
      (body.policy = .note → t = u) ∧ (body.policy = .reject → ∃ y, u.item? it.number = some y ∧ u.ForceClosed t y))

/-- An edge with captured position `x` is taken on input `k` (R19 to R24, R123, R124, R128). -/
structure State.EdgeTaken (s t : State) (k : Fin 8) (x : Position) : Prop where
  suppressed : (s.input k).accepted = true → (s.input k).suppress = true →
    t = { s with
      inputs := s.inputs.set k.val { s.input k with accepted := false, measurement := none, suppress := false } }
  routed : ¬((s.input k).accepted = true ∧ (s.input k).suppress = true) →
    let leading := !(s.input k).accepted
    let u := { s with inputs := s.inputs.set k.val { s.input k with accepted := leading, measurement := none } }
    let i := s.input k
    t.inputs = u.inputs ∧
    (i.role = .entry → u.EntryEdge t leading x) ∧
    (i.role = .mark → leading = false → t = u) ∧
    (i.role = .mark → leading = true → t = { u with ports := t.ports } ∧ u.Posted t .input 0 x (.mark k s.pos.lp)) ∧
    (i.role = .checkpoint → leading = false → t = u) ∧
    (i.role = .checkpoint → leading = true → (∀ it ∈ s.items.live, ∀ d, ¬it.CandidateAt k i x d) →
      t = { u with ports := t.ports } ∧ u.Posted t .input 0 x (.phantom k s.pos.lp)) ∧
    (i.role = .checkpoint → leading = true → ∀ before it after d, s.items.live = before ++ it :: after →
      (∀ y ∈ before, ∀ e, ¬y.CandidateAt k i x e) → it.CandidateAt k i x d → ∃ v : State,
        v = { u with
          items := { s.items with live := s.items.live.map (fun y => if y.number = it.number then
            { y with correction := y.correction + d, marks := y.marks ++ [⟨k, .matched d⟩] } else y) }
          ports := v.ports } ∧
        u.Posted v .item it.number x (.checkpointMatch k (it.marks.length + 1) d (it.correction + d)) ∧
        ∃ y w, v.item? it.number = some y ∧ v.ActionsReplaced w y.actions ∧
          State.PointsWalked none it.number w t)

end Sys2Proof.Machine
end

