-- ==== Sys2Proof/Certificates/Slice0/Obligations.lean ====
section
/-! DEFINITION. The statements for the provers. In every statement about a command, `s.FrameWaits p name seq params rest`
says that a well-formed frame of the command is the oldest that waits at port `p`, with `rest` behind it; `s.taking p rest`
is the state in which the command's own rule acts (its frame has left the list, the keepalive timer has started anew,
nothing else has changed); and an equation `exec … s = .next …` says all that the command changes. -/
open Sys2Proof Sys2Proof.Machine

/-! ### The block as a whole -/

/-- One step takes the command at the front of the queue; on an empty queue the block idles (log 1). -/
def Obligations.StepTakesTheFrontCommand : Prop :=
  ∀ (c : Instr) (rest : List Instr) (s : State),
    (s.pending = c :: rest → step s = exec c { s with pending := rest }) ∧ (s.pending = [] → step s = .next s)

/-- Every command and event completes in every state, with a next state whose queue is as it was: the part has no fault
and no refusal of its own (spec 95; a refused command is a reply). -/
def Obligations.EveryCommandCompletesAndKeepsTheQueue : Prop :=
  ∀ (c : Instr) (s : State), ∃ t, exec c s = .next t ∧ t.pending = s.pending

/-! ### Frames and the CRC (R178 to R180) -/

/-- R178, R179, R183, R196, R198, R199 and the code tables of spec 12, as literal bytes: the byte order, the frames of
commands and replies, the CRC (0 over a whole frame exactly when its last byte is the CRC of the bytes before it, and the
three reference values), verdict slots, checkpoint marks, the block of CONFIG_LINE, the hold causes, the resource numbers,
and the code of every command, result and shared enumeration value (a flag of two codes, session state, wait mode, invert
and reply attention among them, is 0 or 1; the offender byte of CONFIG_LINE's ORDER, the lease byte of RELEASE and the
notice kinds stand in the statements of CONFIG_LINE, RELEASE and FETCH). -/
def Obligations.FormatsAndCodesAreAsLaidOut : Prop :=
  (∀ a b c d : Byte, be16 (a ++ b) = [a, b] ∧ be24 (a ++ (b ++ c)) = [a, b, c] ∧
    be32 (a ++ (b ++ (c ++ d))) = [a, b, c, d]) ∧
  (∀ (code seq : Byte) (params : List Byte),
    let before := [code, seq, BitVec.ofNat 8 params.length] ++ params
    commandFrame code seq params = before ++ [crc8 before]) ∧
  (∀ (status code seq result : Byte) (payload : List Byte),
    let before := [status, code, seq, result, BitVec.ofNat 8 payload.length] ++ payload
    replyBytes status code seq result payload = before ++ [crc8 before]) ∧
  (∀ (bytes : List Byte) (c : Byte), crc8 (bytes ++ [c]) = 0 ↔ c = crc8 bytes) ∧
  crc8 [0x01] = 0x07 ∧ crc8 [0x01, 0x02] = 0x1B ∧
  crc8 [0x31, 0x32, 0x33, 0x34, 0x35, 0x36, 0x37, 0x38, 0x39] = 0xF4 ∧
  (∀ slot : Slot, slotBytes slot = slot.pair true) ∧
  (∀ (k : Fin 8) (slip : Int),
    markBytes ⟨k, .matched slip⟩ = BitVec.ofNat 8 k.val :: be24 (BitVec.ofInt 24 slip) ∧
    markBytes ⟨k, .missed⟩ = [0x80 ||| BitVec.ofNat 8 k.val, 0, 0, 0]) ∧
  (∀ c : LineConfig, lineBytes c =
    [match c.encoderMode with
      | .quad1 => 0
      | .quad2 => 1
      | .quad4 => 2
      | .stepDir => 3
      | .upDown => 4,
     if c.invert then 1 else 0, c.encoderFilter.setWidth 8] ++
    (0 :: be24 c.exitDistance) ++ (0 :: be24 c.entryBlanking) ++ (0 :: be24 c.jamLength) ++
    be16 c.reverseAllowance ++ [c.standstillTime, c.ranks.a, c.ranks.b, c.ranks.c] ++ be16 c.holdMask) ∧
  [CommandName.attach, .detach, .portReset, .status, .fetch, .ack, .lease, .release, .configLine, .configInput,
    .configChannel, .writeRecipe, .eraseRecipe, .readRecipe, .stageRecipe, .cancelStage, .postAction, .cancelAction,
    .clearChannel, .readChannel, .verdict, .readItem, .listItems, .removeItem, .purgeLine, .setHold, .releaseHold,
    .readPosition, .setPosition, .resetDevice].map commandCode =
    [0x01, 0x02, 0x03, 0x04, 0x05, 0x06, 0x10, 0x11, 0x20, 0x21, 0x22, 0x30, 0x31, 0x32, 0x33, 0x34, 0x40, 0x41, 0x42,
      0x43, 0x50, 0x60, 0x61, 0x62, 0x63, 0x70, 0x71, 0x78, 0x79, 0x7F] ∧
  [Result.ok, .waiting, .replaced, .none].map resultCode = [0x00, 0x01, 0x02, 0x03] ∧
  [Result.frameError, .unknownCommand, .badParameter, .notAttached, .alreadyAttached, .already, .notLeased,
    .leasedElsewhere, .held, .notOwner, .noItem, .noAction, .past, .order].map resultCode =
    [0x10, 0x11, 0x12, 0x13, 0x14, 0x15, 0x16, 0x17, 0x18, 0x19, 0x1A, 0x1B, 0x1C, 0x1D] ∧
  [Result.overlap, .noSpace, .itemLimit, .late, .notVoter, .inUse, .notEmpty, .notStill, .stageFull, .notStaged,
    .invalidRecipe, .entryTaken, .badSerial, .busy].map resultCode =
    [0x1E, 0x1F, 0x20, 0x21, 0x22, 0x23, 0x24, 0x25, 0x26, 0x27, 0x28, 0x29, 0x2A, 0x2B] ∧
  ([Port.A, .B, .C].map portCode = [0, 1, 2] ∧ portOrNoneCode none = 3 ∧ ∀ p, portOrNoneCode (some p) = portCode p) ∧
  ((∀ n, widthKindCode (.counts n) = 0) ∧ (∀ x, widthKindCode (.time x) = 1) ∧ widthKindCode .latch = 2 ∧
    (∀ n, widthValue (.counts n) = n) ∧ ∀ x, (widthValue (.time x)).toNat = x.toNat) ∧
  (conditionKindCode .always = 0 ∧ (∀ p, conditionKindCode (.ifAccept p) = 1 ∧ conditionKindCode (.ifReject p) = 2) ∧
    conditionKindCode .ifAllAccept = 3 ∧ conditionKindCode .ifAnyReject = 4) ∧
  [Verdict.accept, .reject].map verdictCode = [0, 1] ∧
  [VoterDefault.accept, .reject, .hold].map voterDefaultCode = [0, 1, 2] ∧
  [Role.off, .entry, .checkpoint, .mark].map Role.code = [0, 1, 2, 3] ∧
  [OnMiss.note, .hold, .reject, .remove].map onMissCode = [0, 1, 2, 3] ∧
  [Policy.refuse, .merge, .priority].map policyCode = [0, 1, 2] ∧
  [LengthPolicy.note, .reject].map lengthPolicyCode = [0, 1] ∧
  [LeaseKind.exclusive, .shared].map leaseKindCode = [0, 1] ∧ [false, true].map flagByte = [0, 1] ∧
  [EndReason.none, .detach, .expired, .portReset, .deviceReset].map endReasonCode = [0, 1, 2, 3, 4] ∧
  [OutState.off, .on, .gap].map outStateCode = [0, 1, 2] ∧ [Motion.still, .moving].map motionCode = [0, 1] ∧
  [Direction.forward, .backward].map directionCode = [0, 1] ∧
  ([ActiveLevel.high, .low].map ActiveLevel.code = [0, 1] ∧ [Polarity.activeHigh, .activeLow].map Polarity.code = [0, 1] ∧
    ∀ b : Byte,
      readActiveLevel b = (if b = 0 then some .high else if b = 1 then some .low else none) ∧
      readPolarity b = (if b = 0 then some .activeHigh else if b = 1 then some .activeLow else none) ∧
      readOrphan b = (if b = 0 then some .keep else if b = 1 then some .cancel else none) ∧
      readScopeBlock [b] = (if b = 0 then some false else if b = 1 then some true else none) ∧
      readBool b = (if b = 0 then some false else if b = 1 then some true else none)) ∧
  (triggerCode .nextEntry = 0 ∧ ∀ x, triggerCode (.atPosition x) = 1) ∧
  (posterCode .auto = 3 ∧ ∀ p, posterCode (.station p) = portCode p) ∧
  (∀ v : PerPort Bool, voterSetByte v = flagsFrom [v.a, v.b, v.c]) ∧
  [FrameFault.partialByte, .length, .crc].map frameFaultCode = [0, 1, 2] ∧
  ((resLine : Fin 33).val = 0 ∧ (∀ k, (resInput k).val = 1 + k.val) ∧ (∀ c, (resChannel c).val = 9 + c.val) ∧
    ∀ i, (resRecipe i).val = 25 + i.val) ∧
  [CloseSource.byPort, .byDefault, .forced].map closeSourceCode = [1, 2, 3] ∧
  [ActionOutcome.done, .skipped, .cancelled, .displaced, .lost, .aborted].map outcomeCode = [0, 1, 2, 3, 4, 5] ∧
  [ExitReason.exit, .removed, .purged, .missed].map exitReasonCode = [0, 1, 2, 3] ∧
  [LengthLimit.minimum, .maximum, .reversed].map lengthLimitCode = [1, 2, 3] ∧
  [HoldOrigin.raised, .set, .released, .sessionEnd].map holdOriginCode = [0, 1, 2, 3] ∧
  [ItemState.entering, .tracked, .leaving].map itemStateCode = [0, 1, 2] ∧
  [ActionState.ahead, .overdue, .waitGap, .on].map actionStateCode = [0, 1, 2, 3] ∧
  [CondState.unresolved, .holds, .fails].map condStateCode = [0, 1, 2] ∧
  [causeReset, causePort .A, causePort .B, causePort .C, causeItemFull, causeActionFull, causeJam, causeLateVerdict,
    causeReverse, causeEncoder, causeCheckpointMiss, causeSessionLost] =
    (List.range 12).map (fun k => (1 : Half) <<< k)

/-- R178, R180: a frame is read as a command exactly when it is the frame that the layout gives for that command's code,
sequence and at most 128 parameter bytes, and it did not end inside a byte. -/
def Obligations.FramesAreReadExactlyAsLaidOut : Prop :=
  ∀ (f : Frame) (code seq : Byte) (params : List Byte),
    judgeFrame f = .command code seq params ↔
      f = ⟨commandFrame code seq params, false⟩ ∧ params.length ≤ 128

/-- R180, of the oldest frame that waits at a port: which frames are malformed and for which reason (0 PARTIAL_BYTE before
1 LENGTH before 2 CRC), and the FRAME_ERROR that answers one, with the code and sequence as received (0 for a byte that did
not arrive), the reason, and the number of whole bytes held at 65,535; a frame of 128 parameter bytes or fewer whose code
names no command is answered UNKNOWN_COMMAND with an empty payload. Neither has another effect; the keepalive timer is not
restarted. -/
def Obligations.FramesThatAreNoCommandAreAnsweredOnly : Prop :=
  ∀ (s : State) (p : Port) (f : Frame) (rest : List Frame), (s.port p).waiting = f :: rest →
    let t := s.setPort p { s.port p with waiting := rest }
    let n := (f.bytes.getD 2 0).toNat
    let badLength := f.bytes.length < 4 ∨ 128 < n ∨ f.bytes.length ≠ n + 4
    let badCrc := f.bytes.getLastD 0 ≠ crc8 f.bytes.dropLast
    let error := fun (reason : Byte) => exec (.unknownCommand p) s = .next (
      t.placeReply p (f.bytes.getD 0 0) (f.bytes.getD 1 0) .frameError
        (reason :: be16 (BitVec.ofNat 16 (min f.bytes.length 65535))))
    (f.partialByte = true → error 0) ∧
    (f.partialByte = false → badLength → error 1) ∧
    (f.partialByte = false → ¬badLength → badCrc → error 2) ∧
    (∀ code seq params, f = ⟨commandFrame code seq params, false⟩ → params.length ≤ 128 →
      (∀ name, commandCode name ≠ code) →
      exec (.unknownCommand p) s = .next (t.placeReply p code seq .unknownCommand []))

/-- R183: what the placing of a reply does, in every state and under every code byte, whether or not it names a command: the
slot then holds the reply, unread, marked REPLY_OVERRUN exactly when it replaced an unread reply, with the status byte of
the port as it stands with the reply in the slot; nothing else changes. -/
def Obligations.PlacedReplyReplacesTheSlot : Prop :=
  ∀ (s : State) (p : Port) (code seq : Byte) (r : Result) (payload : List Byte),
    let t := s.placeReply p code seq r payload
    t.Replied p code seq r payload ((s.port p).slot.any (fun old => !old.read)) ∧
      t = s.setPort p { s.port p with slot := (t.port p).slot }

/-- R182, R197: the flags of the port status byte at their bit positions. R136, R149, R191: ATN and HOLDN are
asserted, and each Q pin stands at its active level, exactly under their conditions; while RSTN is low ATN is released and
HOLDN is asserted. -/
def Obligations.StatusByteAndPinsFollowTheState : Prop :=
  (∀ (ps : PortState) (holdSet : Bool),
    let b := statusByte ps holdSet
    b.getLsbD 0 = ps.session.attached ∧ b.getLsbD 1 = !ps.queue.isEmpty ∧
      b.getLsbD 2 = ps.slot.any (fun r => !r.read) ∧ b.getLsbD 3 = ps.slot.any (fun r => r.overrun) ∧
      b.getLsbD 4 = (ps.lost != 0) ∧ b.getLsbD 5 = holdSet ∧ b.getLsbD 6 = false ∧ b.getLsbD 7 = false) ∧
  ∀ s : State,
    (∀ p, s.atnAsserted p = true ↔ s.rstn = true ∧ ((s.port p).queue ≠ [] ∨
      ((s.port p).session.attached = true ∧ (s.port p).session.attention = true ∧
        ∃ r, (s.port p).slot = some r ∧ r.read = false))) ∧
    (s.holdnAsserted = true ↔ s.rstn = false ∨ s.hold ≠ 0) ∧
    (∀ c, s.qLevel c = true ↔
      ((s.channel c).polarity = .activeHigh ↔ (s.channel c).onSet ≠ []))

/-! ### Transactions (R178, R181, R184) -/

/-- R178: with RSTN high, a CSN fall begins a transaction and takes the status byte as it stands, which the port sends in
the first byte time; it sends 0x00 in every later one of a command frame.

R178, R181: at the CSN rise of a transaction of one whole byte or more whose first byte is not 0x00, the frame waits
behind the port's earlier frames; without a whole byte nothing waits. Nothing else changes.

R194, R195: a CSN fall while RSTN is low begins no transaction, and nothing changes but the level of CSN. A port that takes part
in no transaction (after a reset, too, with CSN still low) sends 0x00, copies no slot, and at the CSN rise leaves nothing
waiting, places no reply and marks nothing: nothing changes but the level of CSN. -/
def Obligations.TransactionsBeginAndFramesWaitInTurn : Prop :=
  (∀ (s : State) (p : Port), s.rstn = true → (s.port p).csnLow = false →
     let ps := s.port p
     let t := s.setPort p
       { ps with csnLow := true, transaction := .receiving (statusByte ps (s.hold != 0))
                 slot := ps.slot.map (fun r => { r with copied := false }) }
     exec (.csnFall p) s = .next t ∧
       t.misoByte p 0 = statusByte ps (s.hold != 0) ∧ ∀ k, t.misoByte p (k + 1) = 0) ∧
  (∀ (s : State) (p : Port), s.rstn = false →
    exec (.csnFall p) s = .next (s.setPort p { s.port p with csnLow := true })) ∧
  (∀ (s : State) (p : Port), (s.port p).transaction = .idle →
    (∀ k, s.misoByte p k = 0) ∧ exec (.replySlotCopy p) s = .next s ∧
      (∀ bytes partialByte, exec (.commandFrameEnd p bytes partialByte) s =
        .next (s.setPort p { s.port p with csnLow := false })) ∧
      ∀ clocked, exec (.read p clocked) s = .next (s.setPort p { s.port p with csnLow := false })) ∧
  ∀ (s : State) (p : Port) (status : Byte) (partialByte : Bool), (s.port p).transaction = .receiving status →
    let ps := s.port p
    (∀ b bytes, b ≠ 0 → exec (.commandFrameEnd p (b :: bytes) partialByte) s = .next (s.setPort p
      { ps with csnLow := false, transaction := .idle, waiting := ps.waiting ++ [⟨b :: bytes, partialByte⟩] })) ∧
    exec (.commandFrameEnd p [] partialByte) s = .next (s.setPort p { ps with csnLow := false, transaction := .idle })

/-- R184: at the end of the first byte of a READ the port copies its slot: the reply as it was placed, or, with the slot
empty, a frame of the present status, code 0, sequence 0, result NONE and length 0. The bytes after the first carry the copy,
and 0x00 after its CRC. R184: at the CSN rise of a READ the reply in the slot is marked read exactly when the copy was clocked
out through its CRC byte and the slot still holds the reply that was copied; nothing else changes but that the transaction is
over. -/
def Obligations.ReadCopiesTheSlotAndMarksTheReply : Prop :=
  (∀ (s : State) (p : Port) (status : Byte), (s.port p).transaction = .receiving status →
     let ps := s.port p
     let copy := match ps.slot with
       | some r => replyBytes r.status r.code r.seq (resultCode r.result) r.payload
       | none => replyBytes (statusByte ps (s.hold != 0)) 0 0 0x03 []
     let t := s.setPort p
       { ps with transaction := .reading status copy, slot := ps.slot.map (fun r => { r with copied := true }) }
     exec (.replySlotCopy p) s = .next t ∧ t.misoByte p 0 = status ∧
       ∀ k, t.misoByte p (k + 1) = copy.getD k 0) ∧
  ∀ (s : State) (p : Port) (status : Byte) (copy : List Byte) (clocked : Nat),
    (s.port p).transaction = .reading status copy →
    let ps := s.port p
    exec (.read p clocked) s = .next (s.setPort p
      { ps with
        csnLow := false, transaction := .idle
        slot := ps.slot.map (fun r =>
          { r with read := r.read || (r.copied && copy.length ≤ clocked), copied := false }) })

/-! ### The common checks (R159, R181) -/

/-- R159, R181 check 3: a detached port answers every command but ATTACH, STATUS and PORT_RESET NOT_ATTACHED, and nothing
else changes. R181 check 4: a parameter block of a length that the command does not take is answered BAD_PARAMETER, by an
attached port for every command but ATTACH, and by a detached one for ATTACH, STATUS and PORT_RESET; nothing else changes
but that the keepalive timer of an attached port starts anew. R171: a caller that is not the exclusive holder of LINE is
answered NOT_LEASED by the commands that need that lease, whatever else their parameters ask within their ranges; nothing
else changes. -/
def Obligations.CommonChecksRefuseInTheirOrder : Prop :=
  (∀ (s : State) (p : Port) (name : CommandName) (seq : Byte) (params : List Byte) (rest : List Frame),
     s.FrameWaits p name seq params rest → (s.port p).session.attached = false → name.takenDetached = false →
     exec (name.row p) s = .next ((s.setPort p { s.port p with waiting := rest }).placeReply p (commandCode name) seq
       .notAttached [])) ∧
  (∀ (s : State) (p : Port) (name : CommandName) (seq : Byte) (params : List Byte) (rest : List Frame),
     s.FrameWaits p name seq params rest → name.lengthAllowed params.length = false →
     (name = .attach → (s.port p).session.attached = false) →
     (name.takenDetached = false → (s.port p).session.attached = true) →
     exec (name.row p) s = .next ((s.taking p rest).placeReply p (commandCode name) seq .badParameter [])) ∧
  ∀ (s : State) (p : Port) (seq : Byte) (params : List Byte) (rest : List Frame) (name : CommandName),
    s.FrameWaits p name seq params rest → (s.port p).session.attached = true →
    (p, LeaseKind.exclusive) ∉ (s.lease 0).holders →
    ((name = .configLine ∧ readLineBlock params ≠ none) ∨ (name = .stageRecipe ∧ readStageBlock params ≠ none) ∨
      (name = .cancelStage ∧ readScopeBlock params ≠ none) ∨ (name = .setPosition ∧ params.length = 4) ∨
      (name = .purgeLine ∧ params = []) ∨ (name = .resetDevice ∧ params = [])) →
    exec (name.row p) s = .next ((s.taking p rest).placeReply p (commandCode name) seq .notLeased [])

/-! ### Sessions (R159 to R165, R193) -/

/-- R160: ATTACH with a parameter block of any length. At an attached port it is answered ALREADY_ATTACHED, before any check of
the parameters, and the session and its options stay but for the keepalive timer, which starts anew (R164). At a detached port a
block of another length than 5 bytes is BAD_PARAMETER, and so is a value out of its range; within the ranges the options are
stored, the keepalive timer starts (or stays stopped for keepalive 0) and the last end reason becomes NONE. -/
def Obligations.AttachOpensASession : Prop :=
  ∀ (s : State) (p : Port) (seq : Byte) (params : List Byte) (rest : List Frame),
    s.FrameWaits p .attach seq params rest →
    let t := s.taking p rest
    ((s.port p).session.attached = true →
      exec (.attach p) s = .next (t.placeReply p 0x01 seq .alreadyAttached [])) ∧
    ((s.port p).session.attached = false → params.length ≠ 5 →
      exec (.attach p) s = .next (t.placeReply p 0x01 seq .badParameter [])) ∧
    ∀ k1 k0 o m a : Byte, (s.port p).session.attached = false → params = [k1, k0, o, m, a] →
      let keepalive : Half := k1 ++ k0
      exec (.attach p) s = .next (
        if keepalive.toNat ≤ 6000 ∧ o.toNat ≤ 1 ∧ m.toNat ≤ 7 ∧ a.toNat ≤ 1 then
          (t.setPort p { t.port p with session :=
            { attached := true, keepalive := keepalive, orphan := if o = 0 then .keep else .cancel
              classes := ⟨m.getLsbD 0, m.getLsbD 1, m.getLsbD 2⟩, attention := a = 1
              timer := if keepalive = 0 then none else some keepalive, lastEnd := .none } }).placeReply p 0x01 seq .ok
            [portCode p, s.line.ranks.get p, endReasonCode (s.port p).session.lastEnd, (s.port p).nextSerial]
        else t.placeReply p 0x01 seq .badParameter [])

/-- R161 to R163, R165, R193: DETACH, a keepalive expiry, and PORT_RESET of an attached port end the session: its leases,
actions and hold cause are given back, its buffers cleared, its options at their DETACHED values and the reason stored,
while verdict slots, the Stage Queue and every configuration stay; LEASE_GRANTED, ACTION_END and HOLD_CHANGED are posted in
the order of R161 (`State.SessionEnded`); where PORT_x is alone in the hold cause set at an expiry, the first HOLD_CHANGED
carries the empty set after and the second the empty set before (log 45's deduction). The reply of DETACH carries what it
gave back (its action count is of the actions bound when step 2 of R161 begins: log 23's deduction); that of PORT_RESET that
a session was ended. PORT_RESET of a detached port clears its queue, lost count, slot and next serial, keeps the last end
reason, and changes nothing else. -/
def Obligations.SessionEndGivesBackAndClears : Prop :=
  ∀ (s : State) (p : Port) (seq : Byte) (rest : List Frame),
    ((s.port p).session.attached = true → s.FrameWaits p .detach seq [] rest → ∃ t, State.SessionEnded (s.taking p rest) t p .detach ∧
      exec (.detach p) s = .next (t.placeReply p 0x02 seq .ok
        (natByte (s.holdingsOf p).length :: natByte (s.waitsOf p).length :: natHalf (s.postedBy p).length))) ∧
    ((s.port p).session.attached = true → s.FrameWaits p .portReset seq [] rest → ∃ t, State.SessionEnded (s.taking p rest) t p .portReset ∧
      exec (.portReset p) s = .next (t.placeReply p 0x03 seq .ok [1, 3])) ∧
    ((s.port p).session.attached = true → (s.port p).session.timer ≠ none →
      ∃ t, State.SessionEnded s t p .expired ∧ exec (.keepaliveExpiry p) s = .next t) ∧
    ((s.port p).session.attached = false → s.FrameWaits p .portReset seq [] rest → exec (.portReset p) s = .next ((s.setPort p
      { s.port p with waiting := rest, queue := [], lost := 0, slot := none, nextSerial := 0 }).placeReply p 0x03 seq .ok
        [0, endReasonCode (s.port p).session.lastEnd]))

/-- R192: STATUS is taken from an attached or a detached port, and answers the values of every group as they stand; it
changes nothing else but the keepalive timer of an attached port. -/
def Obligations.StatusReportsTheState : Prop :=
  ∀ (s : State) (p : Port) (seq : Byte) (rest : List Frame), s.FrameWaits p .status seq [] rest →
    let ps := s.port p
    exec (.status p) s = .next ((s.taking p rest).placeReply p 0x04 seq .ok (
      [portCode p, s.line.ranks.get p, if ps.session.attached then 1 else 0, endReasonCode ps.session.lastEnd,
        ps.nextSerial, natByte ps.queue.length] ++ be16 ps.lost ++
      be32 s.pos.lp ++ [if s.pos.motion = .still then 0 else 1] ++
      be16 s.hold ++
      [natByte s.items.live.length] ++ be16 s.items.entryLost ++
      be16 (BitVec.ofNat 16 s.actions.freeList.length) ++
      [natByte s.recipes.current.val, natByte s.recipes.stage.length] ++
      s.recipes.stage.flatMap (fun e => natByte e.recipe.val ::
        (match e.trigger with
         | .nextEntry => [0, 0, 0, 0, 0]
         | .atPosition x => 1 :: be32 x)) ++
      [0x31, 0x60, 1]))

/-! ### The notice queue (R185 to R189) -/

/-- R188, R185, R199: FETCH with any parameter is answered BAD_PARAMETER; without, it answers the queue depth, the lost
count, the number of records and the oldest records, at most 7 of them, 16 bytes each in the layout of R199
(`Notice.record`: serial, kind code, item number, position and the data bytes of the kind; in ITEM_EXIT, log 40 for a
pending verdict, and log 47 for the missing count and the length, which it does not carry). It removes nothing and changes
nothing else but the keepalive timer, which restarts. -/
def Obligations.FetchCopiesTheOldestNotices : Prop :=
  ∀ (s : State) (p : Port) (seq : Byte) (params : List Byte) (rest : List Frame),
    s.FrameWaits p .fetch seq params rest → (s.port p).session.attached = true →
    let queue := (s.port p).queue
    let bytes := [natByte queue.length] ++ be16 (s.port p).lost ++ [natByte (min queue.length 7)] ++
      (queue.take 7).flatMap Notice.record
    (exec (.fetch p) s = .next (
      if params = [] then (s.taking p rest).placeReply p 0x05 seq .ok bytes
      else (s.taking p rest).placeReply p 0x05 seq .badParameter [])) ∧
      ∀ n ∈ queue, n.record.length = 16

/-- R189, R187: an ACK of other than one byte is answered BAD_PARAMETER; of a serial in the queue it removes that notice and
every one before it, and queues OVERFLOW when notices were lost; of a serial that is not in the queue it is answered
BAD_SERIAL. Nothing else changes but the keepalive timer. -/
def Obligations.AckRemovesThroughTheSerial : Prop :=
  ∀ (s : State) (p : Port) (seq : Byte) (params : List Byte) (rest : List Frame),
    s.FrameWaits p .ack seq params rest → (s.port p).session.attached = true →
    let t := s.taking p rest
    let ps := s.port p
    (params.length ≠ 1 → exec (.ack p) s = .next (t.placeReply p 0x06 seq .badParameter [])) ∧
    ∀ serial, params = [serial] →
    (∀ before n after, ps.queue = before ++ n :: after → n.serial = serial → (∀ m ∈ before, m.serial ≠ serial) →
      exec (.ack p) s = .next (
        if ps.lost = 0 then
          (t.setPort p { t.port p with queue := after }).placeReply p 0x06 seq .ok
            [natByte (before.length + 1), natByte after.length, 0, 0]
        else
          (t.setPort p
            { t.port p with
              queue := after ++ [⟨ps.nextSerial, 0, s.pos.lp, .overflow ps.lost⟩]
              nextSerial := ps.nextSerial + 1, lost := 0 }).placeReply p 0x06 seq .ok
            [natByte (before.length + 1), natByte (after.length + 1), 1, ps.nextSerial])) ∧
    ((∀ n ∈ ps.queue, n.serial ≠ serial) → exec (.ack p) s = .next (t.placeReply p 0x06 seq .badSerial []))

/-! ### Leases (R166 to R170) -/

/-- R167: LEASE on resources 0 to 32; a resource above 32 or an unlisted kind or wait mode is BAD_PARAMETER. A port that is a
holder or a waiter is answered ALREADY; a grantable request joins the holders; one that is not joins the tail of the wait list
under WAIT and changes nothing under NOWAIT. (The kind byte of HELD and WAITING is that of the first holder; with no holder,
which no run reaches, it is the kind asked for: log 20's choice. ALREADY carries no payload: log 49's deduction.) -/
def Obligations.LeaseGrantsQueuesOrHolds : Prop :=
  ∀ (s : State) (p : Port) (seq : Byte) (params : List Byte) (rest : List Frame),
    s.FrameWaits p .lease seq params rest → (s.port p).session.attached = true →
    let t := s.taking p rest
    let block := fun (r : Fin 33) (kind : LeaseKind) (wait : Bool) => [natByte r.val, leaseKindCode kind, flagByte wait]
    ((∀ r kind wait, params ≠ block r kind wait) →
      exec (.lease p) s = .next (t.placeReply p 0x10 seq .badParameter [])) ∧
    ∀ (r : Fin 33) (kind : LeaseKind) (wait : Bool), params = block r kind wait →
    let e := s.lease r
    let grantable := e.waiters = [] ∧
      (kind = .exclusive ∧ e.holders = [] ∨ kind = .shared ∧ ∀ h ∈ e.holders, h.2 ≠ .exclusive)
    let holdsNow := fun (holders : List (Port × LeaseKind)) =>
      [natByte r.val, leaseKindCode kind, natByte holders.length, leaseKindCode (holders.head?.elim kind Prod.snd)]
    ((∃ k, (p, k) ∈ e.holders ++ e.waiters) →
      exec (.lease p) s = .next (t.placeReply p 0x10 seq .already [])) ∧
    ((∀ k, (p, k) ∉ e.holders ++ e.waiters) → grantable →
      exec (.lease p) s = .next ((t.updLease r (fun e => { e with holders := e.holders ++ [(p, kind)] })).placeReply p
        0x10 seq .ok (holdsNow (e.holders ++ [(p, kind)])))) ∧
    ((∀ k, (p, k) ∉ e.holders ++ e.waiters) → ¬grantable → wait = true →
      exec (.lease p) s = .next ((t.updLease r (fun e => { e with waiters := e.waiters ++ [(p, kind)] })).placeReply p
        0x10 seq .waiting (holdsNow e.holders ++ [natByte (e.waiters.length + 1)]))) ∧
    ((∀ k, (p, k) ∉ e.holders ++ e.waiters) → ¬grantable → wait = false →
      exec (.lease p) s = .next (t.placeReply p 0x10 seq .held (holdsNow e.holders)))

/-- R168, R169: RELEASE of a resource that the caller holds or waits for ends the holding or withdraws the wait entry, then
runs the arbiter on that resource, and answers how many grants it made; of any other resource it is answered NOT_LEASED, and of
a number above 32 BAD_PARAMETER. -/
def Obligations.ReleaseEndsTheHoldingAndRunsTheArbiter : Prop :=
  ∀ (s : State) (p : Port) (seq : Byte) (params : List Byte) (rest : List Frame),
    s.FrameWaits p .release seq params rest → (s.port p).session.attached = true →
    let t := s.taking p rest
    ((∀ r : Fin 33, params ≠ [natByte r.val]) →
      exec (.release p) s = .next (t.placeReply p 0x11 seq .badParameter [])) ∧
    ∀ r : Fin 33, params = [natByte r.val] →
    let e := s.lease r
    ((∃ k, (p, k) ∈ e.holders ++ e.waiters) →
      ∃ n u, State.Arbitrates r n (t.updLease r (fun e =>
          ⟨e.holders.filter (fun h => h.1 ≠ p), e.waiters.filter (fun h => h.1 ≠ p)⟩)) u ∧
        exec (.release p) s = .next (u.placeReply p 0x11 seq .ok
          [natByte r.val, if e.holders.any (fun h => h.1 = p) then 0 else 1, natByte n])) ∧
    ((∀ k, (p, k) ∉ e.holders ++ e.waiters) → exec (.release p) s = .next (t.placeReply p 0x11 seq .notLeased []))

/-! ### The line, input and channel configurations (R14, R27, R28, R144, R145, R173, R174) -/

/-- R173, R174, R14: CONFIG_LINE from the exclusive holder of LINE. A block that is no configuration within the ranges is
BAD_PARAMETER, unlisted codes and distances of more than 24 bits included; with a live item, NOT_EMPTY; with an offending
offset, ORDER with one such offset and its place (which one is an open choice, log 24); otherwise the configuration is
written whole, and the reply carries it in 21 bytes (a distance in 3, a length in 4: log 43). A new encoder mode loads the
decoder reference. A new filter setting discards a measurement; where the raw level differs it starts a new one or, at
setting 0, accepts the raw level, which the decoder compares in the encoder event that follows, so that the command posts
nothing and leaves LP and HWP (log 12). With both changed in one command the reference is loaded before or after that
acceptance (an open choice, log 12). -/
def Obligations.ConfigLineWritesTheWholeConfiguration : Prop :=
  ∀ (s : State) (p : Port) (seq : Byte) (params : List Byte) (rest : List Frame),
    s.FrameWaits p .configLine seq params rest → (s.port p).session.attached = true →
    ((∀ c : LineConfig, c.InRange → params ≠ lineBytes c) →
      exec (.configLine p) s = .next ((s.taking p rest).placeReply p 0x20 seq .badParameter [])) ∧
    ∀ c : LineConfig, params = lineBytes c → c.InRange →
      let t := s.taking p rest
      let written := { t with line := c }
      let stored :=
        [encoderModeCode c.encoderMode, if c.invert then 1 else 0, c.encoderFilter.setWidth 8] ++
        be24 c.exitDistance ++ be24 c.entryBlanking ++ (0 :: be24 c.jamLength) ++ be16 c.reverseAllowance ++
        [c.standstillTime, c.ranks.a, c.ranks.b, c.ranks.c] ++ be16 c.holdMask
      let answer := fun u => exec (.configLine p) s = .next (State.placeReply u p 0x20 seq .ok stored)
      let leased := (p, LeaseKind.exclusive) ∈ (s.lease 0).holders
      let offended := ∃ o b i, s.Offends c.exitDistance.toNat o b i
      let again := fun (x : Phase) =>
        if x.raw = x.accepted then { x with measuring := none }
        else if c.encoderFilter = 0 then ⟨x.raw, x.raw, none⟩
        else { x with measuring := some c.encoderFilter }
      let sameMode := c.encoderMode = s.line.encoderMode
      let sameFilter := c.encoderFilter = s.line.encoderFilter
      (¬leased → exec (.configLine p) s = .next (t.placeReply p 0x20 seq .notLeased [])) ∧
      (leased → s.items.live ≠ [] → exec (.configLine p) s = .next (t.placeReply p 0x20 seq .notEmpty [])) ∧
      (leased → s.items.live = [] → offended →
        ∃ o b i n, s.Offends c.exitDistance.toNat o b i ∧ exec (.configLine p) s = .next (
          { t with free := n }.placeReply p 0x20 seq .order
            (be24 (BitVec.ofNat 24 o) ++ [if b then 1 else 0, natByte i]))) ∧
      (leased → s.items.live = [] → ¬offended →
        (sameMode → sameFilter → answer written) ∧
        (¬sameMode → sameFilter →
          answer { written with pos :=
            { s.pos with refA := s.pos.phaseA.accepted, refB := s.pos.phaseB.accepted } }) ∧
        (sameMode → ¬sameFilter →
          answer { written with pos := { s.pos with phaseA := again s.pos.phaseA, phaseB := again s.pos.phaseB } }) ∧
        (¬sameMode → ¬sameFilter → ∃ (loadedFirst : Bool) (n : Nat),
          answer { written with
            free := n
            pos := { s.pos with
              phaseA := again s.pos.phaseA, phaseB := again s.pos.phaseB
              refA := (if loadedFirst then s.pos.phaseA else again s.pos.phaseA).accepted
              refB := (if loadedFirst then s.pos.phaseB else again s.pos.phaseB).accepted } }))

/-- R27, R28, R21: CONFIG_INPUT, its checks in their order, and a configuration written whole with its effect on the running
state of the input by the first row of R28 that applies (log 33 for a filter changed beside N, W or the on-miss action). An
input above 7, an unlisted role, level or (for CHECKPOINT) on-miss action, and N or W of 0 for CHECKPOINT are BAD_PARAMETER;
for another role N, W and the on-miss byte are not examined. A load finds the pin under the new active level; where the
active level of a MARK input changes and a leading edge meets the command (return suppression is clear, the pin is found at
the old active level, and it stood there before or its transition is an edge at once, at filter 0 from INACTIVE), it may
find ACTIVE (an open choice, log 36), and where a raw transition of the input waits behind the command, the load may find
the pin at that level already (an open choice, log 37). A filter of 0 written over a measurement takes its edge at once with
the captured position; where that creates an item, its points behind LP are by log 14 and its SKIPPED endings by log 48. The
level's byte in the reply is a free value (log 18). -/
def Obligations.ConfigInputWritesTheInput : Prop :=
  ∀ (s : State) (p : Port) (seq : Byte) (params : List Byte) (rest : List Frame),
    s.FrameWaits p .configInput seq params rest → (s.port p).session.attached = true →
    let block := fun (k : Fin 8) (r : Role) (l : ActiveLevel) (f : Byte) (n : Offset) (w : Half) (o : Byte) =>
      [natByte k.val, r.code, l.code, f] ++ be24 n ++ be16 w ++ [o]
    let inRange := fun (r : Role) (n : Offset) (w : Half) (o : Byte) (m : OnMiss) =>
      r = .checkpoint → n ≠ 0 ∧ w ≠ 0 ∧ o = onMissCode m
    ((∀ k r l f n w o m, inRange r n w o m → params ≠ block k r l f n w o) →
      exec (.configInput p) s = .next ((s.taking p rest).placeReply p 0x21 seq .badParameter [])) ∧
    ∀ (k : Fin 8) (r : Role) (l : ActiveLevel) (f : Byte) (n : Offset) (w : Half) (o : Byte) (m : OnMiss),
    params = block k r l f n w o → inRange r n w o m →
    let t := s.taking p rest
    let old := s.input k
    let check := r = .checkpoint
    let configured := { old with
      role := r, active := l, filter := f, nominal := if check then n else 0, window := if check then w else 0
      onMiss := if check then m else .note }
    let loads := r ≠ .off ∧ (r ≠ old.role ∨ l ≠ old.active)
    let restarts := r ≠ .off ∧ r = old.role ∧ l = old.active ∧ f ≠ old.filter
    let answer := fun r => exec (.configInput p) s = .next (t.placeReply p 0x21 seq r [])
    let written := fun (u : State) => exec (.configInput p) s =
      .next (u.placeReply p 0x21 seq .ok [natByte k.val, Config.levelCode (u.input k).accepted])
    let leased := (p, LeaseKind.exclusive) ∈ (s.lease ⟨k.val + 1, by omega⟩).holders
    let taken := r = .entry ∧ ∃ j, j ≠ k ∧ (s.input j).role = .entry
    let notEmpty := s.items.live ≠ [] ∧
      (old.role = .entry ∨ old.role = .checkpoint ∨ r = .entry ∨ r = .checkpoint)
    let tooFar := check ∧ s.line.exitDistance.toNat ≤ n.toNat + w.toNat
    (¬leased → answer .notLeased) ∧
    (leased → taken → answer .entryTaken) ∧
    (leased → ¬taken → notEmpty → answer .notEmpty) ∧
    (leased → ¬taken → ¬notEmpty → tooFar → answer .order) ∧
    (leased → ¬taken → ¬notEmpty → ¬tooFar →
      (r = .off → old.role = .off → written (t.updInput k (fun _ => configured))) ∧
      (r = .off → old.role ≠ .off → written (t.updInput k (fun _ =>
        { configured with accepted := false, measurement := none, suppress := false }))) ∧
      (loads → ∃ (pin level : Bool) (free : Nat),
        let found := if l = .high then pin else !pin
        let open_ := old.role = .mark ∧ old.suppress = false ∧ l ≠ old.active ∧ found = false ∧
          (pin = old.pin ∨ old.filter = 0 ∧ old.accepted = false)
        (pin ≠ old.pin → Instr.rawTransition k pin ∈ s.pending) ∧ (level ≠ found → open_) ∧
        ((∀ x, Instr.rawTransition k x ∉ s.pending) → ¬open_ → free = s.free) ∧
        written ({ t with free := free }.updInput k (fun _ =>
          { configured with pin := pin, accepted := level, measurement := none, suppress := level }))) ∧
      (r ≠ .off → ¬loads → ¬restarts → written (t.updInput k (fun _ => configured))) ∧
      (restarts → f ≠ 0 ∨ old.measurement = none → written (t.updInput k (fun _ =>
        { configured with measurement := old.measurement.map (fun x => ⟨x.captured, f⟩) }))) ∧
      (restarts → f = 0 → ∀ x, old.measurement = some x → ∃ u,
        (t.updInput k (fun _ => configured)).EdgeTaken u k x.captured ∧ written u))

/-- R144, R145: CONFIG_CHANNEL, its checks in their order (a channel above 15, an unlisted polarity or policy, and a span of 0
are BAD_PARAMETER), and a configuration written whole that changes nothing of the
channel's running state. (The two bytes of the BUSY count are log 25's choice.) -/
def Obligations.ConfigChannelWritesTheChannel : Prop :=
  ∀ (s : State) (p : Port) (seq : Byte) (params : List Byte) (rest : List Frame),
    s.FrameWaits p .configChannel seq params rest → (s.port p).session.attached = true →
    let t := s.taking p rest
    let block := fun (c : Fin 16) (pol : Polarity) (gap : Half) (policy : Policy) (span : Half) =>
      [natByte c.val, pol.code] ++ be16 gap ++ [policyCode policy] ++ be16 span
    ((∀ c pol gap policy span, span ≠ 0 → params ≠ block c pol gap policy span) →
      exec (.configChannel p) s = .next (t.placeReply p 0x22 seq .badParameter [])) ∧
    ∀ (c : Fin 16) (pol : Polarity) (gap : Half) (policy : Policy) (span : Half),
    params = block c pol gap policy span → span ≠ 0 →
    let firing := (s.actionsOf (s.schedule c)).countP (fun a => a.state = .on ∨ a.state = .waitGap)
    exec (.configChannel p) s = .next (
      if (p, LeaseKind.exclusive) ∉ (s.lease ⟨c.val + 9, by omega⟩).holders then
        t.placeReply p 0x22 seq .notLeased []
      else if firing ≠ 0 then t.placeReply p 0x22 seq .busy (be16 (BitVec.ofNat 16 firing))
      else (t.updChannel c (fun ch =>
        { ch with polarity := pol, minGap := gap, policy := policy, span := span })).placeReply p 0x22 seq .ok
          (natByte c.val :: outStateCode (s.channel c).out :: be32 (s.channel c).fireCount))

/-! ### The hold cause set and the line position (R12, R13, R149, R152 to R154) -/

/-- R152: SET_HOLD adds the caller's own cause; HOLD_CHANGED is posted exactly when the cause was absent. -/
def Obligations.SetHoldAddsTheCallersCause : Prop :=
  ∀ (s : State) (p : Port) (seq : Byte) (rest : List Frame),
    s.FrameWaits p .setHold seq [] rest → (s.port p).session.attached = true →
    let after := s.hold ||| causePort p
    ∃ t, (s.taking p rest).HoldChanged t after .set (some p) ∧
      exec (.setHold p) s = .next (t.placeReply p 0x70 seq .ok (be16 after))

/-- R153: RELEASE_HOLD. A block of other than 2 bytes or a bit outside the twelve is BAD_PARAMETER; a cause other than the
caller's own needs the exclusive LINE lease; every named cause that is in the set leaves it, with one HOLD_CHANGED when one
did. -/
def Obligations.ReleaseHoldRemovesTheNamedCauses : Prop :=
  ∀ (s : State) (p : Port) (seq : Byte) (params : List Byte) (rest : List Frame),
    s.FrameWaits p .releaseHold seq params rest → (s.port p).session.attached = true →
    let t := s.taking p rest
    (params.length ≠ 2 → exec (.releaseHold p) s = .next (t.placeReply p 0x71 seq .badParameter [])) ∧
    ∀ mask : Half, params = be16 mask →
    let after := s.hold &&& ~~~mask
    let allowed := mask &&& ~~~causePort p = 0 ∨ (p, LeaseKind.exclusive) ∈ (s.lease 0).holders
    (mask &&& 0xF000 ≠ 0 → exec (.releaseHold p) s = .next (t.placeReply p 0x71 seq .badParameter [])) ∧
    (mask &&& 0xF000 = 0 → ¬allowed → exec (.releaseHold p) s = .next (t.placeReply p 0x71 seq .notLeased [])) ∧
    (mask &&& 0xF000 = 0 → allowed → ∃ u, t.HoldChanged u after .released (some p) ∧
      exec (.releaseHold p) s = .next (u.placeReply p 0x71 seq .ok
        (be16 s.hold ++ be16 after ++ be16 (s.hold &&& mask))))

/-- R13: READ_POSITION with any parameter is answered BAD_PARAMETER; without, it answers LP, HWP, the motion state, the
excursion flag and the error count. Neither changes anything but the keepalive timer. -/
def Obligations.ReadPositionReports : Prop :=
  ∀ (s : State) (p : Port) (seq : Byte) (params : List Byte) (rest : List Frame),
    s.FrameWaits p .readPosition seq params rest → (s.port p).session.attached = true →
    exec (.readPosition p) s = .next (
      if params = [] then (s.taking p rest).placeReply p 0x78 seq .ok (
        be32 s.pos.lp ++ be32 s.pos.hwp ++
          [if s.pos.motion = .still then 0 else 1, if s.pos.excursion then 1 else 0] ++ be16 s.pos.errorCount)
      else (s.taking p rest).placeReply p 0x78 seq .badParameter [])

/-- R12: SET_POSITION, its checks in their order; LP and HWP become v, the excursion flag is cleared, and the captured
position of every measurement in progress moves by v − LP; nothing else changes. -/
def Obligations.SetPositionMovesTheScale : Prop :=
  ∀ (s : State) (p : Port) (seq : Byte) (rest : List Frame) (v : Position),
    s.FrameWaits p .setPosition seq (be32 v) rest → (s.port p).session.attached = true →
    let t := s.taking p rest
    let moved : State :=
      { t with
        pos := { s.pos with lp := v, hwp := v, excursion := false }
        inputs := s.inputs.map (fun i =>
          { i with measurement := i.measurement.map (fun m => { m with captured := m.captured + (v - s.pos.lp) }) }) }
    exec (.setPosition p) s = .next (
      if (p, LeaseKind.exclusive) ∉ (s.lease 0).holders then t.placeReply p 0x79 seq .notLeased []
      else if s.pos.motion ≠ .still then t.placeReply p 0x79 seq .notStill []
      else if s.items.live ≠ [] ∨ ∃ e ∈ s.recipes.stage, e.trigger ≠ .nextEntry then
        t.placeReply p 0x79 seq .notEmpty []
      else
        moved.placeReply p 0x79 seq .ok (be32 s.pos.lp ++ be32 v))

/-! ### The resets (R15, R16, R30, R31, R56, R57, R74, R75, R104, R147, R148, R158, R176, R177, R194, R195, R200) -/

/-- RESET_DEVICE from the exclusive holder of LINE: every block in the state that its rule gives, every port detached with
reason DEVICE_RESET, the transactions of the other ports ended, the waiting frames discarded, and the reply OK in the
emptied slot. Whether an encoder filter at once measures a raw level that differs is open (log 13); whether a READ on another
port goes on sending its copy (log 44), and whether a frame that waits at another port stays (log 46), are free values. -/
def Obligations.ResetDeviceResetsEveryBlock : Prop :=
  ∀ (s : State) (p : Port) (seq : Byte) (rest : List Frame),
    s.FrameWaits p .resetDevice seq [] rest → (s.port p).session.attached = true →
    (p, LeaseKind.exclusive) ∈ (s.lease 0).holders →
    ∃ t : State,
      exec (.resetDevice p) s = .next (t.placeReply p 0x7F seq .ok []) ∧
      (((t.placeReply p 0x7F seq .ok []).port p).slot.map Reply.status = some 0x24) ∧
      t = { s with
        pos := { lp := 0, hwp := 0, motion := .still, standstillTimer := none, errorCount := 0, excursion := false
                 refA := s.pos.phaseA.accepted, refB := s.pos.phaseB.accepted
                 phaseA := t.pos.phaseA, phaseB := t.pos.phaseB }
        inputs := s.inputs.map (fun i =>
          if i.role = .off then i
          else
            let level := if i.active = .high then i.pin else !i.pin
            { i with accepted := level, measurement := none, suppress := level })
        items := { live := [], nextNumber := 1, trailing := .nothing, entryLost := 0, reEntry := 0 }
        recipes := { s.recipes with store := s.recipes.store.map (fun r => { r with refCount := 0 }), stage := [] }
        actions := { pool := Vector.replicate 256 ⟨1, none⟩, freeList := List.finRange 256
                     schedules := Vector.replicate 16 [], bindCount := 0 }
        channels := s.channels.map (fun ch =>
          { ch with out := .off, onSet := [], waitSet := [], gapTimer := none, fireCount := 0, gapFresh := false })
        hold := 0x0001
        leases := Vector.replicate 33 ⟨[], []⟩
        ports := t.ports
        free := t.free } ∧
      (∀ x y, (x, y) = (s.pos.phaseA, t.pos.phaseA) ∨ (x, y) = (s.pos.phaseB, t.pos.phaseB) →
        y.raw = x.raw ∧ y.accepted = x.accepted ∧ (x.raw = x.accepted → y.measuring = none) ∧
          (x.raw ≠ x.accepted → y.measuring = none ∨ y.measuring = some s.line.encoderFilter)) ∧
      ∀ q, t.port q =
        { session := .detached .deviceReset, csnLow := (s.port q).csnLow
          transaction := if q = p then (s.port q).transaction else
            match (s.port q).transaction with
            | .reading status copy => if Config.readSurvivesReset then .reading status copy else .idle
            | _ => .idle
          waiting := if q = p then [] else (s.port q).waiting.filter (fun f => Config.frameOutlivesReset f.bytes)
          slot := none, queue := [], nextSerial := 0, lost := 0 }

/-- Power-on reset: RSTN low for 1 µs or longer leaves every block in the state that its rule gives, with the levels on the
input pins as they are; a pulse shorter than 100 ns does nothing; between those lengths it is one or the other, whole. -/
def Obligations.PowerOnResetLeavesEveryBlockReset : Prop :=
  ∀ (s : State) (lowNs : Nat),
    let port := fun (x : PortState) =>
      ({ session := .detached .none, csnLow := x.csnLow, transaction := .idle, waiting := [], slot := none, queue := []
         nextSerial := 0, lost := 0 } : PortState)
    let phase := fun (x : Phase) => (⟨x.raw, x.raw, none⟩ : Phase)
    let t : State :=
      { s with
        rstn := false
        pos := { lp := 0, hwp := 0, motion := .still, standstillTimer := none, errorCount := 0, excursion := false
                 refA := s.pos.phaseA.raw, refB := s.pos.phaseB.raw
                 phaseA := phase s.pos.phaseA, phaseB := phase s.pos.phaseB }
        line := { encoderMode := .quad4, invert := false, encoderFilter := 0, exitDistance := 10000
                  entryBlanking := 100, jamLength := 5000, reverseAllowance := 200, standstillTime := 50
                  ranks := ⟨1, 2, 3⟩, holdMask := 0x0FF0 }
        inputs := s.inputs.map (fun i =>
          { role := .off, active := .high, filter := 0, nominal := 0, window := 0, onMiss := .note, accepted := false
            measurement := none, suppress := false, pin := i.pin })
        items := { live := [], nextNumber := 1, trailing := .nothing, entryLost := 0, reEntry := 0 }
        recipes := { store := (Vector.replicate 8 ⟨false, .empty, 0⟩).set 0 ⟨true, .empty, 0⟩, current := 0, stage := [] }
        actions := { pool := Vector.replicate 256 ⟨1, none⟩, freeList := List.finRange 256
                     schedules := Vector.replicate 16 [], bindCount := 0 }
        channels := Vector.replicate 16
          { polarity := .activeHigh, minGap := 0, policy := .refuse, span := 1, out := .off, onSet := [], waitSet := []
            gapTimer := none, fireCount := 0, gapFresh := false }
        hold := 0x0001
        leases := Vector.replicate 33 ⟨[], []⟩
        ports := ⟨port s.ports.a, port s.ports.b, port s.ports.c⟩ }
    (1000 ≤ lowNs → exec (.powerOnReset lowNs) s = .next t) ∧
    (lowNs < 100 → exec (.powerOnReset lowNs) s = .next s) ∧
    (∃ n, exec (.powerOnReset lowNs) s = .next { t with free := n } ∨
      exec (.powerOnReset lowNs) s = .next { s with free := n })

/-- R15: when RSTN rises both filters are idle, and the accepted levels and the decoder reference are the levels on A and B;
nothing else changes. The state right after reset is what a power-on reset followed by the rise of RSTN gives from every
state whose queue is empty, whose count of open choices is 0 and whose input pins stand as log 9 chooses; its first status
byte is 0x20 (R197). -/
def Obligations.RstnRiseLoadsTheEncoder : Prop :=
  (∀ s : State, s.rstn = false →
    exec .rstnRise s = .next { s with
      rstn := true
      pos := { s.pos with
        refA := s.pos.phaseA.raw, refB := s.pos.phaseB.raw
        phaseA := ⟨s.pos.phaseA.raw, s.pos.phaseA.raw, none⟩, phaseB := ⟨s.pos.phaseB.raw, s.pos.phaseB.raw, none⟩ } }) ∧
  (∀ s : State, s.pending = [] → s.free = 0 → s.pos.phaseA.raw = false → s.pos.phaseB.raw = false →
    (∀ k, (s.input k).pin = false) → (∀ p, (s.port p).csnLow = false) →
    ∃ t, exec (.powerOnReset 1000) s = .next t ∧ exec .rstnRise t = .next State.reset) ∧
  ∀ p, statusByte (State.reset.port p) (State.reset.hold != 0) = 0x20

/-! ### Recipes and the Stage Queue (R58, R61 to R65, R68, R72) -/

/-- R61 to R63, R58, R196: WRITE_RECIPE, the checks in their order, and a body written whole that makes the recipe valid. A
block that carries no body within the ranges (an index above 7, an unlisted code, another length, a width of 0, a TIME width
above 65,535, limits out of order) is BAD_PARAMETER; so is, by log 26's deduction, a condition byte with bit 3, 6 or 7 set.
Whatever it carries as the decision offset and default of a port that is no voter, as the width value of LATCH and as the
port of a condition that names none is not examined, and is stored as 0, ACCEPT and 0 (`b.Stored`: of the bodies that a
block can be read as, the one that R58 stores). -/
def Obligations.WriteRecipeChecksAndStoresTheBody : Prop :=
  ∀ (s : State) (p : Port) (seq : Byte) (params : List Byte) (rest : List Frame),
    s.FrameWaits p .writeRecipe seq params rest → (s.port p).session.attached = true →
    ((∀ i (b : RecipeBody) spare ignored, b.Stored → b.InRange → ignored.length = b.templates.length →
        params ≠ b.carried i spare ignored) →
      exec (.writeRecipe p) s = .next ((s.taking p rest).placeReply p 0x30 seq .badParameter [])) ∧
    ∀ (i : Fin 8) (b : RecipeBody) (spare : PerPort (Offset × Byte)) (ignored : List (BitVec 2 × Offset)),
    params = b.carried i spare ignored → b.Stored → b.InRange → ignored.length = b.templates.length →
    let t := s.taking p rest
    let answer := fun r => exec (.writeRecipe p) s = .next (t.placeReply p 0x30 seq r [])
    let leased := (p, LeaseKind.exclusive) ∈ (s.lease ⟨i.val + 25, by omega⟩).holders
    let free := (s.recipe i).refCount = 0
    let within := (∀ q, b.voter.get q = true → (b.decision.get q).toNat < s.line.exitDistance.toNat) ∧
      ∀ x ∈ b.templates, x.fire.toNat < s.line.exitDistance.toNat
    let voters := ∀ x ∈ b.templates, ∀ q, x.condition.port = some q → b.voter.get q = true
    let ordered := ∀ x ∈ b.templates, ∀ q, x.condition.dependsOn b q → (b.decision.get q).toNat < x.fire.toNat
    (¬leased → answer .notLeased) ∧
    (leased → ¬free → answer .inUse) ∧
    (leased → free → ¬within → answer .badParameter) ∧
    (leased → free → within → ¬voters → answer .notVoter) ∧
    (leased → free → within → voters → ¬ordered → answer .order) ∧
    (leased → free → within → voters → ordered → exec (.writeRecipe p) s = .next (
      (t.updRecipe i (fun r => { r with valid := true, body := b })).placeReply p 0x30 seq .ok
        [natByte i.val, natByte b.templates.length, if (s.recipe i).valid then 1 else 0]))

/-- R64: ERASE_RECIPE refuses recipe 0 and an index above 7, needs the recipe's exclusive lease, refuses a recipe in use, and
otherwise leaves the recipe invalid with the empty body. -/
def Obligations.EraseRecipeLeavesTheEmptyBody : Prop :=
  ∀ (s : State) (p : Port) (seq b : Byte) (rest : List Frame),
    s.FrameWaits p .eraseRecipe seq [b] rest → (s.port p).session.attached = true →
    let t := s.taking p rest
    let answer := fun r => exec (.eraseRecipe p) s = .next (t.placeReply p 0x31 seq r [])
    (b = 0 ∨ 7 < b.toNat → answer .badParameter) ∧
    ∀ i : Fin 8, i ≠ 0 → b = natByte i.val →
      let leased := (p, LeaseKind.exclusive) ∈ (s.lease ⟨i.val + 25, by omega⟩).holders
      let used := s.recipes.current = i ∨ (∃ e ∈ s.recipes.stage, e.recipe = i) ∨ (s.recipe i).refCount ≠ 0
      (¬leased → answer .notLeased) ∧ (leased → used → answer .inUse) ∧
      (leased → ¬used → exec (.eraseRecipe p) s = .next ((t.updRecipe i (fun r =>
        { r with
          valid := false
          body := { lengthMin := 0, lengthMax := 0, policy := .note, voter := .all false, decision := .all 0
                    default_ := .all .accept, templates := [] } })).placeReply p 0x31 seq .ok
            [b, if (s.recipe i).valid then 1 else 0]))

/-- R65: READ_RECIPE of an index above 7 is answered BAD_PARAMETER; of another it answers the valid flag, the reference count,
whether the recipe is current, how many stage entries name it, and the body in the layout of WRITE_RECIPE; it changes nothing
but the keepalive timer. The port bits of a condition that names no port are free values (log 19). -/
def Obligations.ReadRecipeReturnsTheWrittenLayout : Prop :=
  ∀ (s : State) (p : Port) (seq : Byte) (params : List Byte) (rest : List Frame),
    s.FrameWaits p .readRecipe seq params rest → (s.port p).session.attached = true →
    ((∀ i : Fin 8, params ≠ [natByte i.val]) →
      exec (.readRecipe p) s = .next ((s.taking p rest).placeReply p 0x32 seq .badParameter [])) ∧
    ∀ i : Fin 8, params = [natByte i.val] →
    ∃ (ignored : List (BitVec 2)) (n : Nat), ignored.length = (s.recipe i).body.templates.length ∧
      exec (.readRecipe p) s = .next ({ s.taking p rest with free := n }.placeReply p 0x32 seq .ok (
        [if (s.recipe i).valid then 1 else 0, natByte (s.recipe i).refCount, if s.recipes.current = i then 1 else 0,
          natByte (s.recipes.stage.countP (fun (e : StageEntry) => e.recipe = i))] ++ (s.recipe i).body.block i ignored))

/-- R68: STAGE_RECIPE, its checks in their order (an index above 7 and an unlisted trigger are BAD_PARAMETER); the entry joins
the tail of the queue. The point is ignored for NEXT_ENTRY. -/
def Obligations.StageRecipeJoinsTheTail : Prop :=
  ∀ (s : State) (p : Port) (seq : Byte) (params : List Byte) (rest : List Frame),
    s.FrameWaits p .stageRecipe seq params rest → (s.port p).session.attached = true →
    let t := s.taking p rest
    let block := fun (i : Fin 8) (atPosition : Bool) (x : Position) =>
      natByte i.val :: (if atPosition then 1 else 0) :: be32 x
    ((∀ i atPosition x, params ≠ block i atPosition x) →
      exec (.stageRecipe p) s = .next (t.placeReply p 0x33 seq .badParameter [])) ∧
    ∀ (i : Fin 8) (atPosition : Bool) (x : Position), params = block i atPosition x →
    let depth := s.recipes.stage.length + 1
    let trigger := if atPosition then Trigger.atPosition x else .nextEntry
    exec (.stageRecipe p) s = .next (
      if (p, LeaseKind.exclusive) ∉ (s.lease 0).holders then t.placeReply p 0x33 seq .notLeased []
      else if (s.recipe i).valid = false then t.placeReply p 0x33 seq .invalidRecipe []
      else if 2 ≤ s.recipes.stage.length then t.placeReply p 0x33 seq .stageFull []
      else if atPosition ∧ ¬(1 ≤ (x - s.pos.lp).toNat ∧ (x - s.pos.lp).toNat ≤ 2147483647) then
        t.placeReply p 0x33 seq .past []
      else ({ t with recipes := { s.recipes with stage := s.recipes.stage ++ [⟨i, trigger⟩] } } : State).placeReply p 0x33
        seq .ok [natByte depth, natByte depth])

/-- R72: CANCEL_STAGE, its checks in their order; with scope NEWEST removes the tail entry, with scope ALL every entry; the
reply gives the recipe and trigger of each removed entry (the order of two is an open choice, log 34). -/
def Obligations.CancelStageRemovesNewestOrAll : Prop :=
  ∀ (s : State) (p : Port) (seq : Byte) (params : List Byte) (rest : List Frame),
    s.FrameWaits p .cancelStage seq params rest → (s.port p).session.attached = true →
    let t := s.taking p rest
    let answer := fun r => exec (.cancelStage p) s = .next (t.placeReply p 0x34 seq r [])
    (params ≠ [0] → params ≠ [1] → answer .badParameter) ∧
    ∀ all : Bool, params = [if all then 1 else 0] →
    ((p, LeaseKind.exclusive) ∉ (s.lease 0).holders → answer .notLeased) ∧
    ((p, LeaseKind.exclusive) ∈ (s.lease 0).holders →
    let bytes := fun (e : StageEntry) => [natByte e.recipe.val, if e.trigger = .nextEntry then 0 else 1]
    (s.recipes.stage = [] → answer .notStaged) ∧
    (∀ before e, s.recipes.stage = before ++ [e] → all = false →
      exec (.cancelStage p) s = .next (
        ({ t with recipes := { s.recipes with stage := before } } : State).placeReply p 0x34 seq .ok
          ([1, natByte before.length] ++ bytes e))) ∧
    (s.recipes.stage ≠ [] → all = true → ∃ shown n, List.Perm shown s.recipes.stage ∧
      exec (.cancelStage p) s = .next (
        ({ t with recipes := { s.recipes with stage := [] }, free := n } : State).placeReply p 0x34 seq .ok
          ([natByte s.recipes.stage.length, 0] ++ shown.flatMap bytes))))

/-! ### Actions and output channels (R77, R79, R81 to R86, R93 to R98, R103, R137 to R140) -/

/-- R80: the state that each condition has for given slots: TRUE, FALSE, or UNRESOLVED otherwise. -/
def Obligations.ConditionsAreDecidedFromTheSlots : Prop :=
  ∀ slots : PerPort Slot,
    let accepted := fun q => ∃ code src, slots.get q = .closed .accept code src
    let rejected := fun q => ∃ code src, slots.get q = .closed .reject code src
    let closed := fun q => slots.get q = .absent ∨ accepted q ∨ rejected q
    decideCondition slots .always = .holds ∧
    (∀ q, (decideCondition slots (.ifAccept q) = .holds ↔ accepted q) ∧
      (decideCondition slots (.ifAccept q) = .fails ↔ rejected q) ∧
      (decideCondition slots (.ifReject q) = .holds ↔ rejected q) ∧
      (decideCondition slots (.ifReject q) = .fails ↔ accepted q)) ∧
    (decideCondition slots .ifAllAccept = .holds ↔ ∀ q, slots.get q = .absent ∨ accepted q) ∧
    (decideCondition slots .ifAllAccept = .fails ↔ (∀ q, closed q) ∧ ∃ q, rejected q) ∧
    (decideCondition slots .ifAnyReject = .holds ↔ (∀ q, closed q) ∧ ∃ q, rejected q) ∧
    (decideCondition slots .ifAnyReject = .fails ↔ ∀ q, slots.get q = .absent ∨ accepted q)

/-- R81, R82: the checks 1 to 8 of POST_ACTION in their order; a refused post changes nothing else. A block that carries no post
(a channel above 15, an unlisted width or condition kind, a TIME value above 65,535, an IF_ACCEPT or IF_REJECT whose port is not
A, B or C, another length) is BAD_PARAMETER, and so are item number 0 and a width of 0; the value of LATCH and the port of a
condition that names none are not examined. -/
def Obligations.PostActionChecksInTheirOrder : Prop :=
  ∀ (s : State) (p : Port) (seq : Byte) (params : List Byte) (rest : List Frame),
    s.FrameWaits p .postAction seq params rest → (s.port p).session.attached = true →
    let answer := fun r => exec (.postAction p) s = .next ((s.taking p rest).placeReply p 0x40 seq r [])
    ((∀ n c fire w v x q tag, params ≠ postBlock n c fire w v x q tag) → answer .badParameter) ∧
    ∀ (n : Half) (c : Fin 16) (fire : Offset) (w : Width) (v : Offset) (x : Condition) (q : Byte) (tag : Half),
    params = postBlock n c fire w v x q tag →
    let holders := (s.lease ⟨c.val + 9, by omega⟩).holders
    let leased := ∃ k, (p, k) ∈ holders
    let elsewhere := ∃ y, y ≠ p ∧ (y, LeaseKind.exclusive) ∈ holders
    let inRange := n ≠ 0 ∧ w ≠ .counts 0 ∧ w ≠ .time 0
    (¬inRange → answer .badParameter) ∧
    (inRange →
      (¬leased → elsewhere → answer .leasedElsewhere) ∧
      (¬leased → ¬elsewhere → answer .notLeased) ∧
      (leased → (∀ it, s.item? n = some it → it.state = .leaving) → answer .noItem) ∧
      ∀ it, leased → s.item? n = some it → it.state ≠ .leaving →
        let body := (s.recipe it.recipe).body
        let ahead := (it.base + fire.setWidth 32 - s.pos.lp).toNat
        let near := fire.toNat < s.line.exitDistance.toNat
        let coming := 1 ≤ ahead ∧ ahead ≤ 2147483647
        let voter := ∀ y, x.port = some y → body.voter.get y = true
        let ordered := ∀ y, x.dependsOn body y → (body.decision.get y).toNat < fire.toNat
        (¬near → answer .badParameter) ∧
        (near → ¬coming → answer .past) ∧
        (near → coming → ¬voter → answer .notVoter) ∧
        (near → coming → voter → ¬ordered → answer .order) ∧
        (near → coming → voter → ordered → 16 ≤ it.actions.length → answer .itemLimit) ∧
        (near → coming → voter → ordered → it.actions.length < 16 → s.actions.freeList = [] → answer .noSpace))

/-- R83 to R86: a post that passes checks 1 to 8. A condition that is FALSE at posting is bound without a conflict check and
ends SKIPPED after the reply is placed; otherwise an overlap refuses it under REFUSE, does nothing under MERGE, and under
PRIORITY displaces the overlapping actions when the caller outranks each of them and none is FIRING, and refuses it when not.
OVERLAP names the first overlapping action in schedule order, also where a later one is what refuses the post (log 21's
deduction). -/
def Obligations.PostActionBindsTheAction : Prop :=
  ∀ (s : State) (p : Port) (seq : Byte) (rest : List Frame) (n : Half) (c : Fin 16) (fire : Offset) (w : Width)
    (v : Offset) (x : Condition) (q : Byte) (tag : Half) (it : Item),
    s.FrameWaits p .postAction seq (postBlock n c fire w v x q tag) rest → (s.port p).session.attached = true →
    n ≠ 0 → w ≠ .counts 0 → w ≠ .time 0 → (∃ k, (p, k) ∈ (s.lease ⟨c.val + 9, by omega⟩).holders) →
    s.item? n = some it → it.state ≠ .leaving → s.PostPasses it fire x → s.actions.freeList ≠ [] →
    let t := s.taking p rest
    let point := it.base + fire.setWidth 32
    let cond := decideCondition it.slots x
    let record := fun (h : Handle) =>
      ({ handle := h, item := n, channel := c, poster := .station p, report := some p, fire := fire, width := w
         condition := x, condState := cond, tag := tag, state := .ahead, start := none, handOver := none, timer := none
         late := false, delayed := false, order := s.actions.bindCount } : Action)
    let bytes := fun (h : Handle) (displaced : Nat) =>
      be16 h ++ [condStateCode cond] ++ be32 point ++ [natByte displaced]
    let overlaps := s.conflicts c point w
    let overlap := fun (a : Action) => exec (.postAction p) s = .next (t.placeReply p 0x40 seq .overlap
      (be16 a.handle ++ [if a.state = .on ∨ a.state = .waitGap then 1 else 0]))
    let beaten := ∀ a ∈ overlaps, a.state ≠ .on ∧ a.state ≠ .waitGap ∧ s.outranks p a.poster
    (cond = .fails → ∃ h u y, t.Bound u h (record h) ∧
      (u.placeReply p 0x40 seq .ok (bytes h 0)).Ended y h (record h) .skipped ∧ exec (.postAction p) s = .next y) ∧
    (cond ≠ .fails → overlaps = [] ∨ (s.channel c).policy = .merge → ∃ h u, t.Bound u h (record h) ∧
      exec (.postAction p) s = .next (u.placeReply p 0x40 seq .ok (bytes h 0))) ∧
    (cond ≠ .fails → ∀ first more, overlaps = first :: more → (s.channel c).policy = .refuse → overlap first) ∧
    (cond ≠ .fails → ∀ first more, overlaps = first :: more → (s.channel c).policy = .priority →
      (¬beaten → overlap first) ∧
      (beaten → ∃ d h u, State.EndsInTurn .displaced (overlaps.map Action.handle) t d ∧ d.Bound u h (record h) ∧
        exec (.postAction p) s = .next (u.placeReply p 0x40 seq .ok (bytes h overlaps.length))))

/-- R77, R98: CANCEL_ACTION, its checks in their order; the action ends CANCELLED. -/
def Obligations.CancelActionEndsTheAction : Prop :=
  ∀ (s : State) (p : Port) (seq : Byte) (params : List Byte) (rest : List Frame),
    s.FrameWaits p .cancelAction seq params rest → (s.port p).session.attached = true →
    let t := s.taking p rest
    let answer := fun r => exec (.cancelAction p) s = .next (t.placeReply p 0x41 seq r [])
    (params.length ≠ 2 → answer .badParameter) ∧
    ∀ h : Handle, params = be16 h →
    (h = 0 → answer .badParameter) ∧
    (h ≠ 0 → (∀ a, ¬s.Names h a) → answer .noAction) ∧
    ∀ a, h ≠ 0 → s.Names h a →
      let allowed := a.poster = .station p ∨
        (p, LeaseKind.exclusive) ∈ (s.lease ⟨a.channel.val + 9, by omega⟩).holders
      (¬allowed → answer .notOwner) ∧
      (allowed → ∃ u, t.EndedWhole u h a .cancelled ∧
        exec (.cancelAction p) s = .next (u.placeReply p 0x41 seq .ok
          (be16 h ++ be16 a.item ++ [if a.state = .on ∨ a.state = .waitGap then 1 else 0])))

/-- R97: CLEAR_CHANNEL, its checks in their order; every FIRING LATCH action of the channel ends DONE, in schedule order. -/
def Obligations.ClearChannelEndsItsLatches : Prop :=
  ∀ (s : State) (p : Port) (seq b : Byte) (rest : List Frame),
    s.FrameWaits p .clearChannel seq [b] rest → (s.port p).session.attached = true →
    let t := s.taking p rest
    let answer := fun r => exec (.clearChannel p) s = .next (t.placeReply p 0x42 seq r [])
    (15 < b.toNat → answer .badParameter) ∧
    ∀ c : Fin 16, b = natByte c.val →
      let holders := (s.lease ⟨c.val + 9, by omega⟩).holders
      let leased := ∃ k, (p, k) ∈ holders
      let elsewhere := ∃ y, y ≠ p ∧ (y, LeaseKind.exclusive) ∈ holders
      let latches := (s.actionsOf (s.schedule c)).filter (fun a =>
        decide ((a.state = .on ∨ a.state = .waitGap) ∧ a.width = .latch))
      (¬leased → elsewhere → answer .leasedElsewhere) ∧
      (¬leased → ¬elsewhere → answer .notLeased) ∧
      (leased → ∃ u, State.EndsInTurn .done (latches.map Action.handle) t u ∧
        exec (.clearChannel p) s = .next (u.placeReply p 0x42 seq .ok
          (be16 (BitVec.ofNat 16 latches.length))))

/-- R103: READ_CHANNEL of a channel above 15 is answered BAD_PARAMETER; of another it answers the output state, the fire
count, the policy, the schedule's length and its first 8 entries; it changes nothing but the keepalive timer. -/
def Obligations.ReadChannelShowsTheSchedule : Prop :=
  ∀ (s : State) (p : Port) (seq : Byte) (params : List Byte) (rest : List Frame),
    s.FrameWaits p .readChannel seq params rest → (s.port p).session.attached = true →
    ((∀ c : Fin 16, params ≠ [natByte c.val]) →
      exec (.readChannel p) s = .next ((s.taking p rest).placeReply p 0x43 seq .badParameter [])) ∧
    ∀ c : Fin 16, params = [natByte c.val] →
    let shown := (s.actionsOf (s.schedule c)).take 8
    let entry := fun (a : Action) =>
      be16 a.handle ++ be16 a.item ++
        [match a.poster with
          | .station y => portCode y
          | .auto => 3,
         actionStateCode a.state, condStateCode a.condState,
         (if a.late then 1 else 0) + (if a.delayed then 2 else 0)] ++
        be32 (if a.state = .on ∨ a.state = .waitGap then a.handOver.getD (s.firePoint a) else s.firePoint a)
    exec (.readChannel p) s = .next ((s.taking p rest).placeReply p 0x43 seq .ok (
      [outStateCode (s.channel c).out] ++ be32 (s.channel c).fireCount ++ [policyCode (s.channel c).policy] ++
        be16 (BitVec.ofNat 16 (s.schedule c).length) ++ [natByte shown.length] ++ shown.flatMap entry))

/-- R96, R93: when the window timer of a bound action runs out the action ends DONE, with the completion of a LEAVING item;
a stopped timer does nothing (log 3). -/
def Obligations.WindowTimerExpiryEndsTheAction : Prop :=
  ∀ (s : State) (i : Fin 256),
    (∀ a, (s.entry i).action = some a → a.timer ≠ none →
      ∃ t, State.EndsInTurn .done [a.handle] s t ∧ exec (.windowTimerExpiry i) s = .next t) ∧
    ((∀ a, (s.entry i).action = some a → a.timer = none) → exec (.windowTimerExpiry i) s = .next s)

/-- R140, R92: when a gap timer runs out the channel is OFF, or every waiting action turns ON together, DELAYED, with LP as
its start; nothing else changes. A stopped timer does nothing (log 3). -/
def Obligations.GapTimerExpiryStartsTheWaitingActions : Prop :=
  ∀ (s : State) (c : Fin 16),
    let ch := s.channel c
    let started := fun (a : Action) =>
      { a with
        state := .on, start := some s.pos.lp, delayed := true
        timer := match a.width with
          | .time x => some x
          | _ => none }
    (ch.gapTimer = none → exec (.gapTimerExpiry c) s = .next s) ∧
    (ch.gapTimer ≠ none → ch.waitSet = [] →
      exec (.gapTimerExpiry c) s = .next (s.updChannel c (fun ch => { ch with out := .off, gapTimer := none }))) ∧
    (ch.gapTimer ≠ none → ch.waitSet ≠ [] → ∃ t : State, exec (.gapTimerExpiry c) s = .next t ∧
      t = { s with
        channels := s.channels.set c.val
          { ch with out := .on, onSet := ch.onSet ++ ch.waitSet, waitSet := [], gapTimer := none }
        actions := { s.actions with pool := t.actions.pool } } ∧
      ∀ i, t.entry i = ⟨(s.entry i).generation, (s.entry i).action.map (fun a =>
        if (s.entry i).generation ++ BitVec.ofFin (w := 8) i ∈ ch.waitSet then started a else a)⟩)

/-! ### Items and verdicts (R46, R47, R49, R51, R53, R54, R107 to R112, R115) -/

/-- R107 to R109: VERDICT, its checks in their order. An OPEN slot takes the verdict and code as its pending verdict, with OK
or, where one was pending, REPLACED; a CLOSED slot is answered LATE and stays. Nothing else changes. (That LATE carries the slot
in 2 bytes, and the decision point of the item's present base, is the model's choice: log 41, log 42.) -/
def Obligations.VerdictIsStoredOrLate : Prop :=
  ∀ (s : State) (p : Port) (seq : Byte) (params : List Byte) (rest : List Frame),
    s.FrameWaits p .verdict seq params rest → (s.port p).session.attached = true →
    let t := s.taking p rest
    let answer := fun r => exec (.verdict p) s = .next (t.placeReply p 0x50 seq r [])
    let block := fun (n : Half) (v : Verdict) (code : BitVec 6) => be16 n ++ [verdictCode v, code.setWidth 8]
    ((∀ n v code, n ≠ 0 → params ≠ block n v code) → answer .badParameter) ∧
    ∀ (n : Half) (v : Verdict) (code : BitVec 6), params = block n v code → n ≠ 0 →
    let stored : State := { t with items := { s.items with live := s.items.live.map (fun y =>
      if y.number = n then { y with slots := y.slots.set p (.opened (some (v, code))) } else y) } }
    (s.item? n = none → answer .noItem) ∧
    ∀ it, s.item? n = some it →
      let decision := be32 (it.base + ((s.recipe it.recipe).body.decision.get p).setWidth 32)
      let verdict := [verdictCode v, code.setWidth 8]
      (it.slots.get p = .absent → answer .notVoter) ∧
      (it.slots.get p = .opened none → exec (.verdict p) s = .next (stored.placeReply p 0x50 seq .ok
        (be16 n ++ verdict ++ decision ++ be32 s.pos.lp))) ∧
      (∀ v1 c1, it.slots.get p = .opened (some (v1, c1)) → exec (.verdict p) s = .next (
        stored.placeReply p 0x50 seq .replaced
          (be16 n ++ verdict ++ [verdictCode v1, c1.setWidth 8] ++ decision ++ be32 s.pos.lp))) ∧
      (∀ v1 c1 src, it.slots.get p = .closed v1 c1 src → exec (.verdict p) s = .next (
        t.placeReply p 0x50 seq .late (be16 n ++ (Slot.closed v1 c1 src).pair true ++ decision ++ be32 s.pos.lp)))

/-- R110 to R112, R111, R115, R80, R90: what a count's reaching of a decision point does to a live item, whatever actions it
holds: an OPEN slot closes with its pending verdict and source PORT, or with the recipe's default, source DEFAULT and code 0,
HOLD closing as REJECT and raising LATE_VERDICT; the item's UNRESOLVED actions are decided, those decided FALSE end SKIPPED and
the OVERDUE ones decided TRUE fire with LATE (in schedule order: log 38); with no voter slot OPEN any more ITEM_DECIDED follows.
A slot that is not OPEN is left. R113: a forced close does the same for every OPEN slot together, REJECT with source FORCED. -/
def Obligations.DecisionPointClosesTheSlot : Prop :=
  ∀ (s : State) (d : Direction) (n : Half) (it : Item), s.item? n = some it →
    (∀ p, s.DecisionReached (s.doTask d (.point n (.decision p))) it p) ∧ s.ForceClosed (s.forceClose n) it

/-- R53, R54, R198: READ_ITEM answers the record of the live item with its index in creation order; LIST_ITEMS answers up to 32
numbers from a start index, and BAD_PARAMETER for a start of 64 and above. Both change nothing but the keepalive timer. -/
def Obligations.ReadItemAndListItemsAnswerTheTable : Prop :=
  ∀ (s : State) (p : Port) (seq : Byte) (rest : List Frame), (s.port p).session.attached = true →
    let t := s.taking p rest
    (∀ n, s.FrameWaits p .readItem seq (be16 n) rest →
      (n = 0 → exec (.readItem p) s = .next (t.placeReply p 0x60 seq .badParameter [])) ∧
      (n ≠ 0 → (∀ it ∈ s.items.live, it.number ≠ n) →
        exec (.readItem p) s = .next (t.placeReply p 0x60 seq .noItem [])) ∧
      ∀ before it after, n ≠ 0 → s.items.live = before ++ it :: after → it.number = n →
        (∀ y ∈ before, y.number ≠ n) →
        exec (.readItem p) s = .next (t.placeReply p 0x60 seq .ok (
          be16 n ++ [natByte before.length, itemStateCode it.state] ++ be32 it.entry ++
          (match it.length with
            | some x => be32 x
            | none => [0xFF, 0xFF, 0xFF, 0xFF]) ++ be32 (BitVec.ofInt 32 it.correction) ++
          be32 (it.entry + BitVec.ofInt 32 it.correction) ++
          be32 (it.entry + BitVec.ofInt 32 it.correction + s.line.exitDistance.setWidth 32) ++
          [natByte it.recipe.val,
            (if it.flags.lengthFault then 1 else 0) + (if it.flags.jam then 2 else 0) +
              (if it.flags.missed then 4 else 0) + (if it.flags.incomplete then 8 else 0),
            natByte it.missing] ++
          it.slots.a.pair true ++ it.slots.b.pair true ++ it.slots.c.pair true ++
          [natByte it.marks.length] ++ it.marks.flatMap (fun m => match m.result with
            | .matched slip => BitVec.ofNat 8 m.input.val :: be24 (BitVec.ofInt 24 slip)
            | .missed => [0x80 ||| BitVec.ofNat 8 m.input.val, 0, 0, 0]) ++
          [natByte it.actions.length] ++ it.actions.flatMap be16))) ∧
    (∀ b : Byte, 64 ≤ b.toNat → s.FrameWaits p .listItems seq [b] rest →
      exec (.listItems p) s = .next (t.placeReply p 0x61 seq .badParameter [])) ∧
    ∀ start : Fin 64, s.FrameWaits p .listItems seq [natByte start.val] rest →
      let shown := (s.items.live.drop start.val).take 32
      exec (.listItems p) s = .next (t.placeReply p 0x61 seq .ok (
        [natByte s.items.live.length, natByte start.val, natByte shown.length] ++ be16 s.items.nextNumber ++
          be16 s.items.reEntry ++ shown.flatMap (fun it => be16 it.number)))

/-- R49, R46, R47: REMOVE_ITEM, its checks in their order; the item's ARMED actions end LOST and its FIRING ones ABORTED, its
record leaves with reason REMOVED, and the new head is checked when the item was the head. -/
def Obligations.RemoveItemTakesTheItemOut : Prop :=
  ∀ (s : State) (p : Port) (seq : Byte) (rest : List Frame) (n : Half),
    s.FrameWaits p .removeItem seq (be16 n) rest → (s.port p).session.attached = true →
    let t := s.taking p rest
    let answer := fun r => exec (.removeItem p) s = .next (t.placeReply p 0x62 seq r [])
    let leased := ∃ k, (p, k) ∈ (s.lease 0).holders
    (n = 0 → answer .badParameter) ∧
    (n ≠ 0 → ¬leased → answer .notLeased) ∧
    (n ≠ 0 → leased → s.item? n = none → answer .noItem) ∧
    ∀ it, n ≠ 0 → leased → s.item? n = some it →
      let firing := it.actions.countP (fun h => (s.action? h).any (fun a =>
        decide (a.state = .on ∨ a.state = .waitGap)))
      ∃ u, t.TakenOut u it .removed ∧ exec (.removeItem p) s = .next (u.placeReply p 0x62 seq .ok
        (be16 n ++ [natByte (it.actions.length - firing), natByte firing]))

/-- R51: PURGE_LINE from the exclusive holder of LINE takes the items out in table order, each with its ARMED actions ended LOST
and its FIRING ones ABORTED, and then its record removed with reason PURGED, without a head check (in a sound Item Table, whose
numbers are distinct). In every state it empties the table, with the actions of every item, turns a pending
trailing edge ITEM into DISCARD, and keeps the Stage Queue, the current recipe, the next number and the counts; the reply
carries the number of items removed. -/
def Obligations.PurgeLineEmptiesTheTable : Prop :=
  ∀ (s : State) (p : Port) (seq : Byte) (rest : List Frame),
    s.FrameWaits p .purgeLine seq [] rest → (s.port p).session.attached = true →
    (p, LeaseKind.exclusive) ∈ (s.lease 0).holders →
    ∃ t : State, exec (.purgeLine p) s = .next (t.placeReply p 0x63 seq .ok [natByte s.items.live.length]) ∧
      t = { s with
        items := { s.items with live := [], trailing := match s.items.trailing with
          | .item _ => .discard
          | x => x }
        recipes := { s.recipes with store := t.recipes.store }
        actions := t.actions, channels := t.channels, ports := t.ports } ∧
      (s.ItemsSound → ∃ u, State.PurgedInTurn s.items.live (s.taking p rest) u ∧
        t = { u with items := { u.items with trailing := t.items.trailing } }) ∧
      (∀ it ∈ s.items.live, ∀ h ∈ it.actions, ∀ a, ¬t.Names h a) ∧
      (∀ h a, t.Names h a → s.Names h a) ∧
      (∀ i, (t.recipe i).valid = (s.recipe i).valid ∧ (t.recipe i).body = (s.recipe i).body) ∧
      (s.ItemsSound → ∀ i, (t.recipe i).refCount = 0) ∧
      (∀ c, (t.channel c).polarity = (s.channel c).polarity ∧ (t.channel c).minGap = (s.channel c).minGap ∧
        (t.channel c).policy = (s.channel c).policy ∧ (t.channel c).span = (s.channel c).span ∧
        (t.channel c).fireCount = (s.channel c).fireCount) ∧
      ∀ q, ((s.taking p rest).port q).OnlyNotices (t.port q)

/-! ### The encoder and the detect inputs (R1 to R6, R9 to R11, R18 to R25, R36 to R38, R41, R42, R123, R124, R128) -/

/-- R4 and, through `State.DecodesTo`, R1 to R3, R5, R6, R10 and R11: a change of the raw levels on A and B, and the end of
the filters' measurements, from every state. A comparison that a CONFIG_LINE left to the decoder is made first (log 12). What
the points reached by a count do is stated of `State.takeCount` and `State.doTask` below. -/
def Obligations.EncoderEventsMoveThePosition : Prop :=
  (∀ (s : State) (a b : Bool), s.rstn = true →
    let filter := s.line.encoderFilter
    let seen := fun (x : Phase) (level : Bool) =>
      if x.raw = level then x
      else if filter = 0 then ⟨level, level, none⟩
      else if level = x.accepted then ⟨level, x.accepted, none⟩
      else ⟨level, x.accepted, some filter⟩
    ∃ u t, s.DecodesTo u ∧ exec (.encoderPhaseChange a b) s = .next t ∧
      State.DecodesTo
        { u with pos := { u.pos with phaseA := seen s.pos.phaseA a, phaseB := seen s.pos.phaseB b } } t) ∧
  (∀ (s : State) (a b : Bool), s.rstn = false →
    exec (.encoderPhaseChange a b) s = .next { s with
      pos := { s.pos with phaseA := { s.pos.phaseA with raw := a }, phaseB := { s.pos.phaseB with raw := b } } }) ∧
  ∀ (s : State) (a b : Bool),
    let done := fun (x : Phase) (named : Bool) =>
      if named = true ∧ x.measuring ≠ none then ⟨x.raw, x.raw, none⟩ else x
    ∃ u t, s.DecodesTo u ∧ exec (.encoderFilterExpiry a b) s = .next t ∧
      State.DecodesTo { u with pos := { u.pos with phaseA := done s.pos.phaseA a, phaseB := done s.pos.phaseB b } } t

/-- R9: when the standstill timer runs out the line is STILL and LINE_STILL is posted (a stopped timer does nothing, log 3). A
forward QUAD4 count on a line with no item, action or stage entry changes the position, starts the timer and, from STILL, makes
the line MOVING with LINE_MOVING, and does nothing else; and so does every count, in every mode, of either direction, that
reaches no point on such a line and begins no excursion. (Of any other line the next statement says it.) -/
def Obligations.MotionFollowsTheCounts : Prop :=
  (∀ s : State,
    (s.pos.standstillTimer = none → exec .standstillTimerExpiry s = .next s) ∧
    (s.pos.standstillTimer ≠ none → ∃ t : State, exec .standstillTimerExpiry s = .next t ∧
      t = { s with pos := { s.pos with motion := .still, standstillTimer := none }, ports := t.ports } ∧
      s.Posted t .line 0 s.pos.lp .lineStill)) ∧
  (∀ s : State, s.rstn = true → s.line.encoderMode = .quad4 → s.line.invert = false → s.line.encoderFilter = 0 →
    s.pos.phaseA = ⟨false, false, none⟩ → s.pos.phaseB = ⟨false, false, none⟩ → s.pos.refA = false →
    s.pos.refB = false → s.items.live = [] → s.recipes.stage = [] → (∀ c, s.schedule c = []) →
    (∀ c, (s.channel c).gapFresh = false) →
    let lp := s.pos.lp + 1
    let hwp := if s.pos.lp = s.pos.hwp then lp else s.pos.hwp
    ∃ t : State, exec (.encoderPhaseChange true false) s = .next t ∧
      t = { s with
        pos := { s.pos with
          lp := lp, hwp := hwp, motion := .moving, standstillTimer := some s.line.standstillTime
          excursion := s.pos.excursion && lp != hwp, refA := true, phaseA := ⟨true, true, none⟩ }
        ports := t.ports } ∧
      (s.pos.motion = .moving → t.ports = s.ports) ∧
      (s.pos.motion = .still → s.Posted t .line 0 lp (.lineMoving .forward))) ∧
  ∀ (s : State) (d : Direction), s.items.live = [] → s.recipes.stage = [] → (∀ c, s.schedule c = []) →
    (∀ c, (s.channel c).gapFresh = false) →
    let lp := if d = .forward then s.pos.lp + 1 else s.pos.lp - 1
    let hwp := if d = .forward ∧ s.pos.lp = s.pos.hwp then lp else s.pos.hwp
    (d = .backward → s.pos.excursion = true ∨ (s.pos.hwp - lp).toNat ≤ s.line.reverseAllowance.toNat) →
    let t := s.takeCount d
    t = { s with
      pos := { s.pos with
        lp := lp, hwp := hwp, motion := .moving, standstillTimer := some s.line.standstillTime
        excursion := if d = .forward then s.pos.excursion && lp != hwp else s.pos.excursion }
      ports := t.ports } ∧
    (s.pos.motion = .moving → t.ports = s.ports) ∧ (s.pos.motion = .still → s.Posted t .line 0 lp (.lineMoving d))

/-- R7 to R10: every count, in every state, acts on the things that stand at it one after another, each of them standing when it
is taken (`State.Stands`, `State.CountRuns`), and marks every gap as older than the next count when it is done. In the states
that the invariants allow it acts on each thing once and leaves none standing, and the motion is among them exactly when the
line was STILL. What each of them does the statements after this one say. -/
def Obligations.CountsActOnEveryReachedPoint : Prop :=
  ∀ (s : State) (d : Direction),
    let lp := if d = .forward then s.pos.lp + 1 else s.pos.lp - 1
    let hwp := if d = .forward ∧ s.pos.lp = s.pos.hwp then lp else s.pos.hwp
    let counted : State := { s with pos := { s.pos with
      lp := lp, hwp := hwp, standstillTimer := some s.line.standstillTime
      excursion := if d = .forward then s.pos.excursion && lp != hwp else s.pos.excursion } }
    ∃ tasks u, State.CountRuns d tasks counted u ∧
      s.takeCount d = { u with channels := u.channels.map (fun ch => { ch with gapFresh := false }) } ∧
      (s.ItemsSound → s.ActionsSound → tasks.Nodup ∧ (∀ task, ¬u.Stands d task) ∧
        (.motion ∈ tasks ↔ s.pos.motion = .still) ∧ u.pos.motion = .moving)

/-- R9, R10, R100, R43, R44, R47, R130, R131, R69 to R71: what a count's acting on each thing does: the line becomes MOVING
with LINE_MOVING; an excursion begins, with REVERSE_FAULT, its cause, and every FIRING COUNTS action ended ABORTED, channels
in ascending number, each in schedule order; an item reaches its jam point, or the miss end of an input, with the on-miss
action (under REJECT the OVERDUE actions of a channel fire in schedule order, log 38; a gap that an item taken out starts is
marked as of this count, log 15); the head reaches its exit point, with the cascade of head checks; the head of the Stage
Queue is applied and the new head checked. -/
def Obligations.ReachedPointsAct : Prop :=
  ∀ (s : State) (d : Direction),
    (∃ t, s.doTask d .motion = t ∧
      t = { s with pos := { s.pos with motion := .moving }, ports := t.ports } ∧
      s.Posted t .line 0 s.pos.lp (.lineMoving d)) ∧
    (∃ u v : State,
      u = { s with pos := { s.pos with excursion := true }, ports := u.ports } ∧
      s.Posted u .line 0 s.pos.lp (.reverseFault s.pos.hwp s.line.reverseAllowance) ∧
      u.HoldChanged v (if s.line.holdMask &&& causeReverse = 0 then s.hold else s.hold ||| causeReverse) .raised none ∧
      State.EndsInTurn .aborted ((List.finRange 16).flatMap (fun c =>
        ((s.actionsOf (s.schedule c)).filter (fun a =>
          decide (a.state = .on ∨ a.state = .waitGap) && match a.width with
            | .counts _ => true
            | _ => false)).map Action.handle)) v (s.doTask d .excursion)) ∧
    (∀ n it, s.item? n = some it → s.JamReached (s.doTask d (.point n .jam)) it ∧
      ∀ k, s.MissTaken (s.doTask d (.point n (.missEnd k))) it k) ∧
    (∀ n, State.HeadRuns true s (s.doTask d (.point n .exit))) ∧
    ∀ e rest, s.recipes.stage = e :: rest → ∃ u, s.StageApplied u e rest ∧ State.StageChecked u (s.doTask d .stage)

/-- R89, R92, R95, R138, R141, R143: what a count's reaching of an action's fire point does (it fires and is handed over to its
channel, or becomes OVERDUE), and what the reaching of a COUNTS window's end point does (the gap that it starts: log 15). -/
def Obligations.FirePointsAndWindowEndsAct : Prop :=
  ∀ (s : State) (d : Direction) (h : Handle) (a : Action), s.Names h a →
    s.FireReached (s.doTask d (.fire h)) h a ∧ s.WindowEnded (s.doTask d (.windowEnd h)) h a

/-- R18, R19, R25: the pin of a detect input changes. An OFF input only has its pin changed; at the accepted level a
measurement is discarded; away from it LP is captured and the filter timer starts, or at filter 0 the edge is taken at once
with LP as its position. `State.EdgeTaken` says what a taken edge does by the input's role (R21 to R24): an item created
(R36 to R40, R69, R87; its points behind LP by log 14, its SKIPPED endings in template order by log 48), a length (R41,
R42), a match with its correction (R123 to R126; logs 38, 39, 50), a PHANTOM (R128) or a MARK. -/
def Obligations.RawTransitionStartsOrTakesTheEdge : Prop :=
  ∀ (s : State) (k : Fin 8) (level : Bool),
    let i := s.input k
    let now := if i.active = .high then level else !level
    let moved := s.updInput k (fun i => { i with pin := level })
    ((i.role = .off ∨ i.pin = level) → exec (.rawTransition k level) s = .next moved) ∧
    (i.role ≠ .off → i.pin ≠ level →
      (now = i.accepted → exec (.rawTransition k level) s =
        .next (s.updInput k (fun i => { i with pin := level, measurement := none }))) ∧
      (now ≠ i.accepted → i.filter ≠ 0 → exec (.rawTransition k level) s =
        .next (s.updInput k (fun i => { i with pin := level, measurement := some ⟨s.pos.lp, i.filter⟩ }))) ∧
      (now ≠ i.accepted → i.filter = 0 → ∃ t, exec (.rawTransition k level) s = .next t ∧
        moved.EdgeTaken t k s.pos.lp))

/-- R19, R20: when the filter timer of a detect input runs out the edge is taken with the captured position, as the
statement before this one has it (creation: logs 14, 48; corrections: logs 38, 39, 50); an idle or an OFF input does nothing
(log 3). -/
def Obligations.DetectFilterExpiryTakesTheEdge : Prop :=
  ∀ (s : State) (k : Fin 8),
    ((s.input k).measurement = none ∨ (s.input k).role = .off → exec (.detectFilterExpiry k) s = .next s) ∧
    (∀ m, (s.input k).measurement = some m → (s.input k).role ≠ .off →
      ∃ t, exec (.detectFilterExpiry k) s = .next t ∧ s.EdgeTaken t k m.captured)

/-! ### What every step keeps -/

/-- R185, R187: on every port, at most 32 notices with consecutive serials, none without a session, and a lost count only
against a full queue; every step keeps this. -/
def Obligations.EveryStepKeepsTheQueuesSound : Prop :=
  ∀ s t : State, s.QueuesSound → step s = .next t → t.QueuesSound

/-- R166: every step keeps each resource's holders and waiters as the Lease Table allows them. -/
def Obligations.EveryStepKeepsTheLeasesSound : Prop :=
  ∀ s t : State, s.LeasesSound → step s = .next t → t.LeasesSound

/-- R137: every step keeps each channel in one of the combinations of output state, sets and gap timer. -/
def Obligations.EveryStepKeepsTheChannelsSound : Prop :=
  ∀ s t : State, s.ChannelsSound → step s = .next t → t.ChannelsSound

/-- R33, R34, R60, R64, R67: every step keeps the Item Table, the reference counts and the Stage Queue sound. -/
def Obligations.EveryStepKeepsItemsAndRecipesSound : Prop :=
  ∀ s t : State, s.ItemsSound → s.RecipesSound → step s = .next t → t.ItemsSound ∧ t.RecipesSound

/-- R76, R78, R79, R80, R136: with a sound Item Table, every step keeps the Action Store, the item action lists and the ON and
wait sets in agreement. -/
def Obligations.EveryStepKeepsTheActionStoreSound : Prop :=
  ∀ s t : State, s.ItemsSound → s.ActionsSound → step s = .next t → t.ActionsSound

/-- R26, R149, R173: every step keeps at most one ENTRY input, and only assigned causes in the hold cause set and the hold
mask. -/
def Obligations.EveryStepKeepsOneEntryAndItsCauses : Prop :=
  ∀ s t : State, step s = .next t → (s.OneEntry → t.OneEntry) ∧ (s.CausesSound → t.CausesSound)

/-- The state right after reset meets every invariant above. -/
def Obligations.ResetMeetsTheInvariants : Prop :=
  State.reset.QueuesSound ∧ State.reset.LeasesSound ∧ State.reset.ChannelsSound ∧ State.reset.ItemsSound ∧
    State.reset.ActionsSound ∧ State.reset.RecipesSound ∧ State.reset.OneEntry ∧ State.reset.CausesSound

/-- Which commands and events can change the line position, and which the configurations and the Lease Table: of all others,
in every state, none does. -/
def Obligations.OnlyTheirCommandsChangeThem : Prop :=
  ∀ (c : Instr) (s t : State), exec c s = .next t →
    (t.pos.lp ≠ s.pos.lp → ∃ p a b ns, c = .setPosition p ∨ c = .resetDevice p ∨
      c = .encoderPhaseChange a b ∨ c = .encoderFilterExpiry a b ∨ c = .powerOnReset ns) ∧
    (t.line ≠ s.line → ∃ p ns, c = .configLine p ∨ c = .powerOnReset ns) ∧
    ((∃ k, (t.input k).role ≠ (s.input k).role ∨ (t.input k).active ≠ (s.input k).active ∨
      (t.input k).filter ≠ (s.input k).filter ∨ (t.input k).nominal ≠ (s.input k).nominal ∨
      (t.input k).window ≠ (s.input k).window ∨ (t.input k).onMiss ≠ (s.input k).onMiss) →
      ∃ p ns, c = .configInput p ∨ c = .powerOnReset ns) ∧
    ((∃ k, (t.channel k).polarity ≠ (s.channel k).polarity ∨ (t.channel k).minGap ≠ (s.channel k).minGap ∨
      (t.channel k).policy ≠ (s.channel k).policy ∨ (t.channel k).span ≠ (s.channel k).span) →
      ∃ p ns, c = .configChannel p ∨ c = .powerOnReset ns) ∧
    ((∃ i, (t.recipe i).valid ≠ (s.recipe i).valid ∨ (t.recipe i).body ≠ (s.recipe i).body) →
      ∃ p ns, c = .writeRecipe p ∨ c = .eraseRecipe p ∨ c = .powerOnReset ns) ∧
    (t.leases ≠ s.leases → ∃ p ns, c = .lease p ∨ c = .release p ∨ c = .detach p ∨ c = .portReset p ∨
      c = .keepaliveExpiry p ∨ c = .resetDevice p ∨ c = .powerOnReset ns)
end

