-- ==== Sys2Proof/Laws/State.lean ====
section
/-! SUPPORT. The small lemmas of the state's updates: what each update leaves unchanged, field by field and read by read,
and what a read gives after the update of the same record. -/
namespace Sys2Proof.Machine

/-! ### Records by port and by index -/

@[simp] theorem PerPort.get_set_self {α : Type} (x : PerPort α) (p : Port) (v : α) : (x.set p v).get p = v := by
  cases p <;> rfl

theorem PerPort.get_set_other {α : Type} (x : PerPort α) {p q : Port} (v : α) (h : q ≠ p) :
    (x.set p v).get q = x.get q := by
  cases p <;> cases q <;> first | rfl | exact absurd rfl h

@[simp] theorem PerPort.get_all {α : Type} (v : α) (p : Port) : (PerPort.all v).get p = v := by cases p <;> rfl

@[simp] theorem State.port_setPort_self (s : State) (p : Port) (x : PortState) : (s.setPort p x).port p = x :=
  PerPort.get_set_self _ _ _

theorem State.port_setPort_other (s : State) {p q : Port} (x : PortState) (h : q ≠ p) :
    (s.setPort p x).port q = s.port q :=
  PerPort.get_set_other _ _ h

theorem State.port_setPort (s : State) (p q : Port) (x : PortState) :
    (s.setPort p x).port q = if q = p then x else s.port q := by
  split
  · subst_vars; simp
  · exact s.port_setPort_other x ‹_›

@[simp] theorem State.port_updPort_self (s : State) (p : Port) (f : PortState → PortState) :
    (s.updPort p f).port p = f (s.port p) :=
  s.port_setPort_self p _

theorem State.port_updPort_other (s : State) {p q : Port} (f : PortState → PortState) (h : q ≠ p) :
    (s.updPort p f).port q = s.port q :=
  s.port_setPort_other _ h

theorem State.port_updPort (s : State) (p q : Port) (f : PortState → PortState) :
    (s.updPort p f).port q = if q = p then f (s.port p) else s.port q :=
  s.port_setPort p q _

theorem State.channel_updChannel (s : State) (c d : Fin 16) (f : Channel → Channel) :
    (s.updChannel c f).channel d = if d = c then f (s.channel c) else s.channel d := by
  simp only [State.channel, State.updChannel, Vector.get_eq_getElem, Vector.getElem_set, Fin.ext_iff, eq_comm]

theorem State.input_updInput (s : State) (k j : Fin 8) (f : Input → Input) :
    (s.updInput k f).input j = if j = k then f (s.input k) else s.input j := by
  simp only [State.input, State.updInput, Vector.get_eq_getElem, Vector.getElem_set, Fin.ext_iff, eq_comm]

theorem State.lease_updLease (s : State) (r q : Fin 33) (f : LeaseEntry → LeaseEntry) :
    (s.updLease r f).lease q = if q = r then f (s.lease r) else s.lease q := by
  simp only [State.lease, State.updLease, Vector.get_eq_getElem, Vector.getElem_set, Fin.ext_iff, eq_comm]

theorem State.recipe_updRecipe (s : State) (i j : Fin 8) (f : Recipe → Recipe) :
    (s.updRecipe i f).recipe j = if j = i then f (s.recipe i) else s.recipe j := by
  simp only [State.recipe, State.updRecipe, Vector.get_eq_getElem, Vector.getElem_set, Fin.ext_iff, eq_comm]

theorem State.entry_setEntry (s : State) (i j : Fin 256) (e : PoolEntry) :
    (s.setEntry i e).entry j = if j = i then e else s.entry j := by
  simp only [State.entry, State.setEntry, Vector.get_eq_getElem, Vector.getElem_set, Fin.ext_iff, eq_comm]

theorem State.schedule_setSchedule (s : State) (c d : Fin 16) (hs : List Handle) :
    (s.setSchedule c hs).schedule d = if d = c then hs else s.schedule d := by
  simp only [State.schedule, State.setSchedule, Vector.get_eq_getElem, Vector.getElem_set, Fin.ext_iff, eq_comm]

@[simp] theorem State.setLive_live (s : State) (xs : List Item) : (s.setLive xs).items.live = xs := rfl

/-! ### What each update leaves unchanged -/

/-! #### State.setPort -/

@[simp] theorem State.setPort_rstn (s : State) (p : Port) (x : PortState) : (s.setPort p x).rstn = s.rstn := rfl
@[simp] theorem State.setPort_pos (s : State) (p : Port) (x : PortState) : (s.setPort p x).pos = s.pos := rfl
@[simp] theorem State.setPort_line (s : State) (p : Port) (x : PortState) : (s.setPort p x).line = s.line := rfl
@[simp] theorem State.setPort_inputs (s : State) (p : Port) (x : PortState) : (s.setPort p x).inputs = s.inputs := rfl
@[simp] theorem State.setPort_items (s : State) (p : Port) (x : PortState) : (s.setPort p x).items = s.items := rfl
@[simp] theorem State.setPort_recipes (s : State) (p : Port) (x : PortState) :
    (s.setPort p x).recipes = s.recipes := rfl
@[simp] theorem State.setPort_actions (s : State) (p : Port) (x : PortState) :
    (s.setPort p x).actions = s.actions := rfl
@[simp] theorem State.setPort_channels (s : State) (p : Port) (x : PortState) :
    (s.setPort p x).channels = s.channels := rfl
@[simp] theorem State.setPort_hold (s : State) (p : Port) (x : PortState) : (s.setPort p x).hold = s.hold := rfl
@[simp] theorem State.setPort_leases (s : State) (p : Port) (x : PortState) : (s.setPort p x).leases = s.leases := rfl
@[simp] theorem State.setPort_free (s : State) (p : Port) (x : PortState) : (s.setPort p x).free = s.free := rfl
@[simp] theorem State.setPort_pending (s : State) (p : Port) (x : PortState) :
    (s.setPort p x).pending = s.pending := rfl
@[simp] theorem State.setPort_channel (s : State) (p : Port) (x : PortState) (d : Fin 16) :
    (s.setPort p x).channel d = s.channel d := rfl
@[simp] theorem State.setPort_input (s : State) (p : Port) (x : PortState) (j : Fin 8) :
    (s.setPort p x).input j = s.input j := rfl
@[simp] theorem State.setPort_lease (s : State) (p : Port) (x : PortState) (q : Fin 33) :
    (s.setPort p x).lease q = s.lease q := rfl
@[simp] theorem State.setPort_recipe (s : State) (p : Port) (x : PortState) (j : Fin 8) :
    (s.setPort p x).recipe j = s.recipe j := rfl
@[simp] theorem State.setPort_item (s : State) (p : Port) (x : PortState) (m : Half) :
    (s.setPort p x).item? m = s.item? m := rfl
@[simp] theorem State.setPort_entry (s : State) (p : Port) (x : PortState) (j : Fin 256) :
    (s.setPort p x).entry j = s.entry j := rfl
@[simp] theorem State.setPort_action (s : State) (p : Port) (x : PortState) (g : Handle) :
    (s.setPort p x).action? g = s.action? g := rfl
@[simp] theorem State.setPort_schedule (s : State) (p : Port) (x : PortState) (d : Fin 16) :
    (s.setPort p x).schedule d = s.schedule d := rfl

/-! #### State.updPort -/

@[simp] theorem State.updPort_rstn (s : State) (p : Port) (f : PortState → PortState) :
    (s.updPort p f).rstn = s.rstn := rfl
@[simp] theorem State.updPort_pos (s : State) (p : Port) (f : PortState → PortState) :
    (s.updPort p f).pos = s.pos := rfl
@[simp] theorem State.updPort_line (s : State) (p : Port) (f : PortState → PortState) :
    (s.updPort p f).line = s.line := rfl
@[simp] theorem State.updPort_inputs (s : State) (p : Port) (f : PortState → PortState) :
    (s.updPort p f).inputs = s.inputs := rfl
@[simp] theorem State.updPort_items (s : State) (p : Port) (f : PortState → PortState) :
    (s.updPort p f).items = s.items := rfl
@[simp] theorem State.updPort_recipes (s : State) (p : Port) (f : PortState → PortState) :
    (s.updPort p f).recipes = s.recipes := rfl
@[simp] theorem State.updPort_actions (s : State) (p : Port) (f : PortState → PortState) :
    (s.updPort p f).actions = s.actions := rfl
@[simp] theorem State.updPort_channels (s : State) (p : Port) (f : PortState → PortState) :
    (s.updPort p f).channels = s.channels := rfl
@[simp] theorem State.updPort_hold (s : State) (p : Port) (f : PortState → PortState) :
    (s.updPort p f).hold = s.hold := rfl
@[simp] theorem State.updPort_leases (s : State) (p : Port) (f : PortState → PortState) :
    (s.updPort p f).leases = s.leases := rfl
@[simp] theorem State.updPort_free (s : State) (p : Port) (f : PortState → PortState) :
    (s.updPort p f).free = s.free := rfl
@[simp] theorem State.updPort_pending (s : State) (p : Port) (f : PortState → PortState) :
    (s.updPort p f).pending = s.pending := rfl
@[simp] theorem State.updPort_channel (s : State) (p : Port) (f : PortState → PortState) (d : Fin 16) :
    (s.updPort p f).channel d = s.channel d := rfl
@[simp] theorem State.updPort_input (s : State) (p : Port) (f : PortState → PortState) (j : Fin 8) :
    (s.updPort p f).input j = s.input j := rfl
@[simp] theorem State.updPort_lease (s : State) (p : Port) (f : PortState → PortState) (q : Fin 33) :
    (s.updPort p f).lease q = s.lease q := rfl
@[simp] theorem State.updPort_recipe (s : State) (p : Port) (f : PortState → PortState) (j : Fin 8) :
    (s.updPort p f).recipe j = s.recipe j := rfl
@[simp] theorem State.updPort_item (s : State) (p : Port) (f : PortState → PortState) (m : Half) :
    (s.updPort p f).item? m = s.item? m := rfl
@[simp] theorem State.updPort_entry (s : State) (p : Port) (f : PortState → PortState) (j : Fin 256) :
    (s.updPort p f).entry j = s.entry j := rfl
@[simp] theorem State.updPort_action (s : State) (p : Port) (f : PortState → PortState) (g : Handle) :
    (s.updPort p f).action? g = s.action? g := rfl
@[simp] theorem State.updPort_schedule (s : State) (p : Port) (f : PortState → PortState) (d : Fin 16) :
    (s.updPort p f).schedule d = s.schedule d := rfl

/-! #### State.updChannel -/

@[simp] theorem State.updChannel_rstn (s : State) (c : Fin 16) (f : Channel → Channel) :
    (s.updChannel c f).rstn = s.rstn := rfl
@[simp] theorem State.updChannel_pos (s : State) (c : Fin 16) (f : Channel → Channel) :
    (s.updChannel c f).pos = s.pos := rfl
@[simp] theorem State.updChannel_line (s : State) (c : Fin 16) (f : Channel → Channel) :
    (s.updChannel c f).line = s.line := rfl
@[simp] theorem State.updChannel_inputs (s : State) (c : Fin 16) (f : Channel → Channel) :
    (s.updChannel c f).inputs = s.inputs := rfl
@[simp] theorem State.updChannel_items (s : State) (c : Fin 16) (f : Channel → Channel) :
    (s.updChannel c f).items = s.items := rfl
@[simp] theorem State.updChannel_recipes (s : State) (c : Fin 16) (f : Channel → Channel) :
    (s.updChannel c f).recipes = s.recipes := rfl
@[simp] theorem State.updChannel_actions (s : State) (c : Fin 16) (f : Channel → Channel) :
    (s.updChannel c f).actions = s.actions := rfl
@[simp] theorem State.updChannel_hold (s : State) (c : Fin 16) (f : Channel → Channel) :
    (s.updChannel c f).hold = s.hold := rfl
@[simp] theorem State.updChannel_leases (s : State) (c : Fin 16) (f : Channel → Channel) :
    (s.updChannel c f).leases = s.leases := rfl
@[simp] theorem State.updChannel_ports (s : State) (c : Fin 16) (f : Channel → Channel) :
    (s.updChannel c f).ports = s.ports := rfl
@[simp] theorem State.updChannel_free (s : State) (c : Fin 16) (f : Channel → Channel) :
    (s.updChannel c f).free = s.free := rfl
@[simp] theorem State.updChannel_pending (s : State) (c : Fin 16) (f : Channel → Channel) :
    (s.updChannel c f).pending = s.pending := rfl
@[simp] theorem State.updChannel_port (s : State) (c : Fin 16) (f : Channel → Channel) (q : Port) :
    (s.updChannel c f).port q = s.port q := rfl
@[simp] theorem State.updChannel_input (s : State) (c : Fin 16) (f : Channel → Channel) (j : Fin 8) :
    (s.updChannel c f).input j = s.input j := rfl
@[simp] theorem State.updChannel_lease (s : State) (c : Fin 16) (f : Channel → Channel) (q : Fin 33) :
    (s.updChannel c f).lease q = s.lease q := rfl
@[simp] theorem State.updChannel_recipe (s : State) (c : Fin 16) (f : Channel → Channel) (j : Fin 8) :
    (s.updChannel c f).recipe j = s.recipe j := rfl
@[simp] theorem State.updChannel_item (s : State) (c : Fin 16) (f : Channel → Channel) (m : Half) :
    (s.updChannel c f).item? m = s.item? m := rfl
@[simp] theorem State.updChannel_entry (s : State) (c : Fin 16) (f : Channel → Channel) (j : Fin 256) :
    (s.updChannel c f).entry j = s.entry j := rfl
@[simp] theorem State.updChannel_action (s : State) (c : Fin 16) (f : Channel → Channel) (g : Handle) :
    (s.updChannel c f).action? g = s.action? g := rfl
@[simp] theorem State.updChannel_schedule (s : State) (c : Fin 16) (f : Channel → Channel) (d : Fin 16) :
    (s.updChannel c f).schedule d = s.schedule d := rfl

/-! #### State.updInput -/

@[simp] theorem State.updInput_rstn (s : State) (k : Fin 8) (f : Input → Input) :
    (s.updInput k f).rstn = s.rstn := rfl
@[simp] theorem State.updInput_pos (s : State) (k : Fin 8) (f : Input → Input) : (s.updInput k f).pos = s.pos := rfl
@[simp] theorem State.updInput_line (s : State) (k : Fin 8) (f : Input → Input) :
    (s.updInput k f).line = s.line := rfl
@[simp] theorem State.updInput_items (s : State) (k : Fin 8) (f : Input → Input) :
    (s.updInput k f).items = s.items := rfl
@[simp] theorem State.updInput_recipes (s : State) (k : Fin 8) (f : Input → Input) :
    (s.updInput k f).recipes = s.recipes := rfl
@[simp] theorem State.updInput_actions (s : State) (k : Fin 8) (f : Input → Input) :
    (s.updInput k f).actions = s.actions := rfl
@[simp] theorem State.updInput_channels (s : State) (k : Fin 8) (f : Input → Input) :
    (s.updInput k f).channels = s.channels := rfl
@[simp] theorem State.updInput_hold (s : State) (k : Fin 8) (f : Input → Input) :
    (s.updInput k f).hold = s.hold := rfl
@[simp] theorem State.updInput_leases (s : State) (k : Fin 8) (f : Input → Input) :
    (s.updInput k f).leases = s.leases := rfl
@[simp] theorem State.updInput_ports (s : State) (k : Fin 8) (f : Input → Input) :
    (s.updInput k f).ports = s.ports := rfl
@[simp] theorem State.updInput_free (s : State) (k : Fin 8) (f : Input → Input) :
    (s.updInput k f).free = s.free := rfl
@[simp] theorem State.updInput_pending (s : State) (k : Fin 8) (f : Input → Input) :
    (s.updInput k f).pending = s.pending := rfl
@[simp] theorem State.updInput_port (s : State) (k : Fin 8) (f : Input → Input) (q : Port) :
    (s.updInput k f).port q = s.port q := rfl
@[simp] theorem State.updInput_channel (s : State) (k : Fin 8) (f : Input → Input) (d : Fin 16) :
    (s.updInput k f).channel d = s.channel d := rfl
@[simp] theorem State.updInput_lease (s : State) (k : Fin 8) (f : Input → Input) (q : Fin 33) :
    (s.updInput k f).lease q = s.lease q := rfl
@[simp] theorem State.updInput_recipe (s : State) (k : Fin 8) (f : Input → Input) (j : Fin 8) :
    (s.updInput k f).recipe j = s.recipe j := rfl
@[simp] theorem State.updInput_item (s : State) (k : Fin 8) (f : Input → Input) (m : Half) :
    (s.updInput k f).item? m = s.item? m := rfl
@[simp] theorem State.updInput_entry (s : State) (k : Fin 8) (f : Input → Input) (j : Fin 256) :
    (s.updInput k f).entry j = s.entry j := rfl
@[simp] theorem State.updInput_action (s : State) (k : Fin 8) (f : Input → Input) (g : Handle) :
    (s.updInput k f).action? g = s.action? g := rfl
@[simp] theorem State.updInput_schedule (s : State) (k : Fin 8) (f : Input → Input) (d : Fin 16) :
    (s.updInput k f).schedule d = s.schedule d := rfl

/-! #### State.updLease -/

@[simp] theorem State.updLease_rstn (s : State) (r : Fin 33) (f : LeaseEntry → LeaseEntry) :
    (s.updLease r f).rstn = s.rstn := rfl
@[simp] theorem State.updLease_pos (s : State) (r : Fin 33) (f : LeaseEntry → LeaseEntry) :
    (s.updLease r f).pos = s.pos := rfl
@[simp] theorem State.updLease_line (s : State) (r : Fin 33) (f : LeaseEntry → LeaseEntry) :
    (s.updLease r f).line = s.line := rfl
@[simp] theorem State.updLease_inputs (s : State) (r : Fin 33) (f : LeaseEntry → LeaseEntry) :
    (s.updLease r f).inputs = s.inputs := rfl
@[simp] theorem State.updLease_items (s : State) (r : Fin 33) (f : LeaseEntry → LeaseEntry) :
    (s.updLease r f).items = s.items := rfl
@[simp] theorem State.updLease_recipes (s : State) (r : Fin 33) (f : LeaseEntry → LeaseEntry) :
    (s.updLease r f).recipes = s.recipes := rfl
@[simp] theorem State.updLease_actions (s : State) (r : Fin 33) (f : LeaseEntry → LeaseEntry) :
    (s.updLease r f).actions = s.actions := rfl
@[simp] theorem State.updLease_channels (s : State) (r : Fin 33) (f : LeaseEntry → LeaseEntry) :
    (s.updLease r f).channels = s.channels := rfl
@[simp] theorem State.updLease_hold (s : State) (r : Fin 33) (f : LeaseEntry → LeaseEntry) :
    (s.updLease r f).hold = s.hold := rfl
@[simp] theorem State.updLease_ports (s : State) (r : Fin 33) (f : LeaseEntry → LeaseEntry) :
    (s.updLease r f).ports = s.ports := rfl
@[simp] theorem State.updLease_free (s : State) (r : Fin 33) (f : LeaseEntry → LeaseEntry) :
    (s.updLease r f).free = s.free := rfl
@[simp] theorem State.updLease_pending (s : State) (r : Fin 33) (f : LeaseEntry → LeaseEntry) :
    (s.updLease r f).pending = s.pending := rfl
@[simp] theorem State.updLease_port (s : State) (r : Fin 33) (f : LeaseEntry → LeaseEntry) (q : Port) :
    (s.updLease r f).port q = s.port q := rfl
@[simp] theorem State.updLease_channel (s : State) (r : Fin 33) (f : LeaseEntry → LeaseEntry) (d : Fin 16) :
    (s.updLease r f).channel d = s.channel d := rfl
@[simp] theorem State.updLease_input (s : State) (r : Fin 33) (f : LeaseEntry → LeaseEntry) (j : Fin 8) :
    (s.updLease r f).input j = s.input j := rfl
@[simp] theorem State.updLease_recipe (s : State) (r : Fin 33) (f : LeaseEntry → LeaseEntry) (j : Fin 8) :
    (s.updLease r f).recipe j = s.recipe j := rfl
@[simp] theorem State.updLease_item (s : State) (r : Fin 33) (f : LeaseEntry → LeaseEntry) (m : Half) :
    (s.updLease r f).item? m = s.item? m := rfl
@[simp] theorem State.updLease_entry (s : State) (r : Fin 33) (f : LeaseEntry → LeaseEntry) (j : Fin 256) :
    (s.updLease r f).entry j = s.entry j := rfl
@[simp] theorem State.updLease_action (s : State) (r : Fin 33) (f : LeaseEntry → LeaseEntry) (g : Handle) :
    (s.updLease r f).action? g = s.action? g := rfl
@[simp] theorem State.updLease_schedule (s : State) (r : Fin 33) (f : LeaseEntry → LeaseEntry) (d : Fin 16) :
    (s.updLease r f).schedule d = s.schedule d := rfl

/-! #### State.updRecipe -/

@[simp] theorem State.updRecipe_rstn (s : State) (i : Fin 8) (f : Recipe → Recipe) :
    (s.updRecipe i f).rstn = s.rstn := rfl
@[simp] theorem State.updRecipe_pos (s : State) (i : Fin 8) (f : Recipe → Recipe) :
    (s.updRecipe i f).pos = s.pos := rfl
@[simp] theorem State.updRecipe_line (s : State) (i : Fin 8) (f : Recipe → Recipe) :
    (s.updRecipe i f).line = s.line := rfl
@[simp] theorem State.updRecipe_inputs (s : State) (i : Fin 8) (f : Recipe → Recipe) :
    (s.updRecipe i f).inputs = s.inputs := rfl
@[simp] theorem State.updRecipe_items (s : State) (i : Fin 8) (f : Recipe → Recipe) :
    (s.updRecipe i f).items = s.items := rfl
@[simp] theorem State.updRecipe_actions (s : State) (i : Fin 8) (f : Recipe → Recipe) :
    (s.updRecipe i f).actions = s.actions := rfl
@[simp] theorem State.updRecipe_channels (s : State) (i : Fin 8) (f : Recipe → Recipe) :
    (s.updRecipe i f).channels = s.channels := rfl
@[simp] theorem State.updRecipe_hold (s : State) (i : Fin 8) (f : Recipe → Recipe) :
    (s.updRecipe i f).hold = s.hold := rfl
@[simp] theorem State.updRecipe_leases (s : State) (i : Fin 8) (f : Recipe → Recipe) :
    (s.updRecipe i f).leases = s.leases := rfl
@[simp] theorem State.updRecipe_ports (s : State) (i : Fin 8) (f : Recipe → Recipe) :
    (s.updRecipe i f).ports = s.ports := rfl
@[simp] theorem State.updRecipe_free (s : State) (i : Fin 8) (f : Recipe → Recipe) :
    (s.updRecipe i f).free = s.free := rfl
@[simp] theorem State.updRecipe_pending (s : State) (i : Fin 8) (f : Recipe → Recipe) :
    (s.updRecipe i f).pending = s.pending := rfl
@[simp] theorem State.updRecipe_port (s : State) (i : Fin 8) (f : Recipe → Recipe) (q : Port) :
    (s.updRecipe i f).port q = s.port q := rfl
@[simp] theorem State.updRecipe_channel (s : State) (i : Fin 8) (f : Recipe → Recipe) (d : Fin 16) :
    (s.updRecipe i f).channel d = s.channel d := rfl
@[simp] theorem State.updRecipe_input (s : State) (i : Fin 8) (f : Recipe → Recipe) (j : Fin 8) :
    (s.updRecipe i f).input j = s.input j := rfl
@[simp] theorem State.updRecipe_lease (s : State) (i : Fin 8) (f : Recipe → Recipe) (q : Fin 33) :
    (s.updRecipe i f).lease q = s.lease q := rfl
@[simp] theorem State.updRecipe_item (s : State) (i : Fin 8) (f : Recipe → Recipe) (m : Half) :
    (s.updRecipe i f).item? m = s.item? m := rfl
@[simp] theorem State.updRecipe_entry (s : State) (i : Fin 8) (f : Recipe → Recipe) (j : Fin 256) :
    (s.updRecipe i f).entry j = s.entry j := rfl
@[simp] theorem State.updRecipe_action (s : State) (i : Fin 8) (f : Recipe → Recipe) (g : Handle) :
    (s.updRecipe i f).action? g = s.action? g := rfl
@[simp] theorem State.updRecipe_schedule (s : State) (i : Fin 8) (f : Recipe → Recipe) (d : Fin 16) :
    (s.updRecipe i f).schedule d = s.schedule d := rfl
@[simp] theorem State.updRecipe_current (s : State) (i : Fin 8) (f : Recipe → Recipe) :
    (s.updRecipe i f).recipes.current = s.recipes.current := rfl
@[simp] theorem State.updRecipe_stage (s : State) (i : Fin 8) (f : Recipe → Recipe) :
    (s.updRecipe i f).recipes.stage = s.recipes.stage := rfl

/-! #### State.setLive -/

@[simp] theorem State.setLive_rstn (s : State) (xs : List Item) : (s.setLive xs).rstn = s.rstn := rfl
@[simp] theorem State.setLive_pos (s : State) (xs : List Item) : (s.setLive xs).pos = s.pos := rfl
@[simp] theorem State.setLive_line (s : State) (xs : List Item) : (s.setLive xs).line = s.line := rfl
@[simp] theorem State.setLive_inputs (s : State) (xs : List Item) : (s.setLive xs).inputs = s.inputs := rfl
@[simp] theorem State.setLive_recipes (s : State) (xs : List Item) : (s.setLive xs).recipes = s.recipes := rfl
@[simp] theorem State.setLive_actions (s : State) (xs : List Item) : (s.setLive xs).actions = s.actions := rfl
@[simp] theorem State.setLive_channels (s : State) (xs : List Item) : (s.setLive xs).channels = s.channels := rfl
@[simp] theorem State.setLive_hold (s : State) (xs : List Item) : (s.setLive xs).hold = s.hold := rfl
@[simp] theorem State.setLive_leases (s : State) (xs : List Item) : (s.setLive xs).leases = s.leases := rfl
@[simp] theorem State.setLive_ports (s : State) (xs : List Item) : (s.setLive xs).ports = s.ports := rfl
@[simp] theorem State.setLive_free (s : State) (xs : List Item) : (s.setLive xs).free = s.free := rfl
@[simp] theorem State.setLive_pending (s : State) (xs : List Item) : (s.setLive xs).pending = s.pending := rfl
@[simp] theorem State.setLive_port (s : State) (xs : List Item) (q : Port) :
    (s.setLive xs).port q = s.port q := rfl
@[simp] theorem State.setLive_channel (s : State) (xs : List Item) (d : Fin 16) :
    (s.setLive xs).channel d = s.channel d := rfl
@[simp] theorem State.setLive_input (s : State) (xs : List Item) (j : Fin 8) :
    (s.setLive xs).input j = s.input j := rfl
@[simp] theorem State.setLive_lease (s : State) (xs : List Item) (q : Fin 33) :
    (s.setLive xs).lease q = s.lease q := rfl
@[simp] theorem State.setLive_recipe (s : State) (xs : List Item) (j : Fin 8) :
    (s.setLive xs).recipe j = s.recipe j := rfl
@[simp] theorem State.setLive_entry (s : State) (xs : List Item) (j : Fin 256) :
    (s.setLive xs).entry j = s.entry j := rfl
@[simp] theorem State.setLive_action (s : State) (xs : List Item) (g : Handle) :
    (s.setLive xs).action? g = s.action? g := rfl
@[simp] theorem State.setLive_schedule (s : State) (xs : List Item) (d : Fin 16) :
    (s.setLive xs).schedule d = s.schedule d := rfl
@[simp] theorem State.setLive_nextNumber (s : State) (xs : List Item) :
    (s.setLive xs).items.nextNumber = s.items.nextNumber := rfl
@[simp] theorem State.setLive_trailing (s : State) (xs : List Item) :
    (s.setLive xs).items.trailing = s.items.trailing := rfl
@[simp] theorem State.setLive_entryLost (s : State) (xs : List Item) :
    (s.setLive xs).items.entryLost = s.items.entryLost := rfl
@[simp] theorem State.setLive_reEntry (s : State) (xs : List Item) :
    (s.setLive xs).items.reEntry = s.items.reEntry := rfl

/-! #### State.updItem -/

@[simp] theorem State.updItem_rstn (s : State) (n : Half) (f : Item → Item) : (s.updItem n f).rstn = s.rstn := rfl
@[simp] theorem State.updItem_pos (s : State) (n : Half) (f : Item → Item) : (s.updItem n f).pos = s.pos := rfl
@[simp] theorem State.updItem_line (s : State) (n : Half) (f : Item → Item) : (s.updItem n f).line = s.line := rfl
@[simp] theorem State.updItem_inputs (s : State) (n : Half) (f : Item → Item) :
    (s.updItem n f).inputs = s.inputs := rfl
@[simp] theorem State.updItem_recipes (s : State) (n : Half) (f : Item → Item) :
    (s.updItem n f).recipes = s.recipes := rfl
@[simp] theorem State.updItem_actions (s : State) (n : Half) (f : Item → Item) :
    (s.updItem n f).actions = s.actions := rfl
@[simp] theorem State.updItem_channels (s : State) (n : Half) (f : Item → Item) :
    (s.updItem n f).channels = s.channels := rfl
@[simp] theorem State.updItem_hold (s : State) (n : Half) (f : Item → Item) : (s.updItem n f).hold = s.hold := rfl
@[simp] theorem State.updItem_leases (s : State) (n : Half) (f : Item → Item) :
    (s.updItem n f).leases = s.leases := rfl
@[simp] theorem State.updItem_ports (s : State) (n : Half) (f : Item → Item) : (s.updItem n f).ports = s.ports := rfl
@[simp] theorem State.updItem_free (s : State) (n : Half) (f : Item → Item) : (s.updItem n f).free = s.free := rfl
@[simp] theorem State.updItem_pending (s : State) (n : Half) (f : Item → Item) :
    (s.updItem n f).pending = s.pending := rfl
@[simp] theorem State.updItem_port (s : State) (n : Half) (f : Item → Item) (q : Port) :
    (s.updItem n f).port q = s.port q := rfl
@[simp] theorem State.updItem_channel (s : State) (n : Half) (f : Item → Item) (d : Fin 16) :
    (s.updItem n f).channel d = s.channel d := rfl
@[simp] theorem State.updItem_input (s : State) (n : Half) (f : Item → Item) (j : Fin 8) :
    (s.updItem n f).input j = s.input j := rfl
@[simp] theorem State.updItem_lease (s : State) (n : Half) (f : Item → Item) (q : Fin 33) :
    (s.updItem n f).lease q = s.lease q := rfl
@[simp] theorem State.updItem_recipe (s : State) (n : Half) (f : Item → Item) (j : Fin 8) :
    (s.updItem n f).recipe j = s.recipe j := rfl
@[simp] theorem State.updItem_entry (s : State) (n : Half) (f : Item → Item) (j : Fin 256) :
    (s.updItem n f).entry j = s.entry j := rfl
@[simp] theorem State.updItem_action (s : State) (n : Half) (f : Item → Item) (g : Handle) :
    (s.updItem n f).action? g = s.action? g := rfl
@[simp] theorem State.updItem_schedule (s : State) (n : Half) (f : Item → Item) (d : Fin 16) :
    (s.updItem n f).schedule d = s.schedule d := rfl
@[simp] theorem State.updItem_nextNumber (s : State) (n : Half) (f : Item → Item) :
    (s.updItem n f).items.nextNumber = s.items.nextNumber := rfl
@[simp] theorem State.updItem_trailing (s : State) (n : Half) (f : Item → Item) :
    (s.updItem n f).items.trailing = s.items.trailing := rfl
@[simp] theorem State.updItem_entryLost (s : State) (n : Half) (f : Item → Item) :
    (s.updItem n f).items.entryLost = s.items.entryLost := rfl
@[simp] theorem State.updItem_reEntry (s : State) (n : Half) (f : Item → Item) :
    (s.updItem n f).items.reEntry = s.items.reEntry := rfl

/-! #### State.setEntry -/

@[simp] theorem State.setEntry_rstn (s : State) (i : Fin 256) (e : PoolEntry) : (s.setEntry i e).rstn = s.rstn := rfl
@[simp] theorem State.setEntry_pos (s : State) (i : Fin 256) (e : PoolEntry) : (s.setEntry i e).pos = s.pos := rfl
@[simp] theorem State.setEntry_line (s : State) (i : Fin 256) (e : PoolEntry) : (s.setEntry i e).line = s.line := rfl
@[simp] theorem State.setEntry_inputs (s : State) (i : Fin 256) (e : PoolEntry) :
    (s.setEntry i e).inputs = s.inputs := rfl
@[simp] theorem State.setEntry_items (s : State) (i : Fin 256) (e : PoolEntry) :
    (s.setEntry i e).items = s.items := rfl
@[simp] theorem State.setEntry_recipes (s : State) (i : Fin 256) (e : PoolEntry) :
    (s.setEntry i e).recipes = s.recipes := rfl
@[simp] theorem State.setEntry_channels (s : State) (i : Fin 256) (e : PoolEntry) :
    (s.setEntry i e).channels = s.channels := rfl
@[simp] theorem State.setEntry_hold (s : State) (i : Fin 256) (e : PoolEntry) : (s.setEntry i e).hold = s.hold := rfl
@[simp] theorem State.setEntry_leases (s : State) (i : Fin 256) (e : PoolEntry) :
    (s.setEntry i e).leases = s.leases := rfl
@[simp] theorem State.setEntry_ports (s : State) (i : Fin 256) (e : PoolEntry) :
    (s.setEntry i e).ports = s.ports := rfl
@[simp] theorem State.setEntry_free (s : State) (i : Fin 256) (e : PoolEntry) : (s.setEntry i e).free = s.free := rfl
@[simp] theorem State.setEntry_pending (s : State) (i : Fin 256) (e : PoolEntry) :
    (s.setEntry i e).pending = s.pending := rfl
@[simp] theorem State.setEntry_port (s : State) (i : Fin 256) (e : PoolEntry) (q : Port) :
    (s.setEntry i e).port q = s.port q := rfl
@[simp] theorem State.setEntry_channel (s : State) (i : Fin 256) (e : PoolEntry) (d : Fin 16) :
    (s.setEntry i e).channel d = s.channel d := rfl
@[simp] theorem State.setEntry_input (s : State) (i : Fin 256) (e : PoolEntry) (j : Fin 8) :
    (s.setEntry i e).input j = s.input j := rfl
@[simp] theorem State.setEntry_lease (s : State) (i : Fin 256) (e : PoolEntry) (q : Fin 33) :
    (s.setEntry i e).lease q = s.lease q := rfl
@[simp] theorem State.setEntry_recipe (s : State) (i : Fin 256) (e : PoolEntry) (j : Fin 8) :
    (s.setEntry i e).recipe j = s.recipe j := rfl
@[simp] theorem State.setEntry_item (s : State) (i : Fin 256) (e : PoolEntry) (m : Half) :
    (s.setEntry i e).item? m = s.item? m := rfl
@[simp] theorem State.setEntry_freeList (s : State) (i : Fin 256) (e : PoolEntry) :
    (s.setEntry i e).actions.freeList = s.actions.freeList := rfl
@[simp] theorem State.setEntry_bindCount (s : State) (i : Fin 256) (e : PoolEntry) :
    (s.setEntry i e).actions.bindCount = s.actions.bindCount := rfl
@[simp] theorem State.setEntry_schedules (s : State) (i : Fin 256) (e : PoolEntry) :
    (s.setEntry i e).actions.schedules = s.actions.schedules := rfl

/-! #### State.setSchedule -/

@[simp] theorem State.setSchedule_rstn (s : State) (c : Fin 16) (hs : List Handle) :
    (s.setSchedule c hs).rstn = s.rstn := rfl
@[simp] theorem State.setSchedule_pos (s : State) (c : Fin 16) (hs : List Handle) :
    (s.setSchedule c hs).pos = s.pos := rfl
@[simp] theorem State.setSchedule_line (s : State) (c : Fin 16) (hs : List Handle) :
    (s.setSchedule c hs).line = s.line := rfl
@[simp] theorem State.setSchedule_inputs (s : State) (c : Fin 16) (hs : List Handle) :
    (s.setSchedule c hs).inputs = s.inputs := rfl
@[simp] theorem State.setSchedule_items (s : State) (c : Fin 16) (hs : List Handle) :
    (s.setSchedule c hs).items = s.items := rfl
@[simp] theorem State.setSchedule_recipes (s : State) (c : Fin 16) (hs : List Handle) :
    (s.setSchedule c hs).recipes = s.recipes := rfl
@[simp] theorem State.setSchedule_channels (s : State) (c : Fin 16) (hs : List Handle) :
    (s.setSchedule c hs).channels = s.channels := rfl
@[simp] theorem State.setSchedule_hold (s : State) (c : Fin 16) (hs : List Handle) :
    (s.setSchedule c hs).hold = s.hold := rfl
@[simp] theorem State.setSchedule_leases (s : State) (c : Fin 16) (hs : List Handle) :
    (s.setSchedule c hs).leases = s.leases := rfl
@[simp] theorem State.setSchedule_ports (s : State) (c : Fin 16) (hs : List Handle) :
    (s.setSchedule c hs).ports = s.ports := rfl
@[simp] theorem State.setSchedule_free (s : State) (c : Fin 16) (hs : List Handle) :
    (s.setSchedule c hs).free = s.free := rfl
@[simp] theorem State.setSchedule_pending (s : State) (c : Fin 16) (hs : List Handle) :
    (s.setSchedule c hs).pending = s.pending := rfl
@[simp] theorem State.setSchedule_port (s : State) (c : Fin 16) (hs : List Handle) (q : Port) :
    (s.setSchedule c hs).port q = s.port q := rfl
@[simp] theorem State.setSchedule_channel (s : State) (c : Fin 16) (hs : List Handle) (d : Fin 16) :
    (s.setSchedule c hs).channel d = s.channel d := rfl
@[simp] theorem State.setSchedule_input (s : State) (c : Fin 16) (hs : List Handle) (j : Fin 8) :
    (s.setSchedule c hs).input j = s.input j := rfl
@[simp] theorem State.setSchedule_lease (s : State) (c : Fin 16) (hs : List Handle) (q : Fin 33) :
    (s.setSchedule c hs).lease q = s.lease q := rfl
@[simp] theorem State.setSchedule_recipe (s : State) (c : Fin 16) (hs : List Handle) (j : Fin 8) :
    (s.setSchedule c hs).recipe j = s.recipe j := rfl
@[simp] theorem State.setSchedule_item (s : State) (c : Fin 16) (hs : List Handle) (m : Half) :
    (s.setSchedule c hs).item? m = s.item? m := rfl
@[simp] theorem State.setSchedule_freeList (s : State) (c : Fin 16) (hs : List Handle) :
    (s.setSchedule c hs).actions.freeList = s.actions.freeList := rfl
@[simp] theorem State.setSchedule_bindCount (s : State) (c : Fin 16) (hs : List Handle) :
    (s.setSchedule c hs).actions.bindCount = s.actions.bindCount := rfl
@[simp] theorem State.setSchedule_pool (s : State) (c : Fin 16) (hs : List Handle) :
    (s.setSchedule c hs).actions.pool = s.actions.pool := rfl

/-! #### State.updAction -/

@[simp] theorem State.updAction_rstn (s : State) (h : Handle) (f : Action → Action) :
    (s.updAction h f).rstn = s.rstn := by unfold State.updAction; dsimp only; split <;> rfl
@[simp] theorem State.updAction_pos (s : State) (h : Handle) (f : Action → Action) :
    (s.updAction h f).pos = s.pos := by unfold State.updAction; dsimp only; split <;> rfl
@[simp] theorem State.updAction_line (s : State) (h : Handle) (f : Action → Action) :
    (s.updAction h f).line = s.line := by unfold State.updAction; dsimp only; split <;> rfl
@[simp] theorem State.updAction_inputs (s : State) (h : Handle) (f : Action → Action) :
    (s.updAction h f).inputs = s.inputs := by unfold State.updAction; dsimp only; split <;> rfl
@[simp] theorem State.updAction_items (s : State) (h : Handle) (f : Action → Action) :
    (s.updAction h f).items = s.items := by unfold State.updAction; dsimp only; split <;> rfl
@[simp] theorem State.updAction_recipes (s : State) (h : Handle) (f : Action → Action) :
    (s.updAction h f).recipes = s.recipes := by unfold State.updAction; dsimp only; split <;> rfl
@[simp] theorem State.updAction_channels (s : State) (h : Handle) (f : Action → Action) :
    (s.updAction h f).channels = s.channels := by unfold State.updAction; dsimp only; split <;> rfl
@[simp] theorem State.updAction_hold (s : State) (h : Handle) (f : Action → Action) :
    (s.updAction h f).hold = s.hold := by unfold State.updAction; dsimp only; split <;> rfl
@[simp] theorem State.updAction_leases (s : State) (h : Handle) (f : Action → Action) :
    (s.updAction h f).leases = s.leases := by unfold State.updAction; dsimp only; split <;> rfl
@[simp] theorem State.updAction_ports (s : State) (h : Handle) (f : Action → Action) :
    (s.updAction h f).ports = s.ports := by unfold State.updAction; dsimp only; split <;> rfl
@[simp] theorem State.updAction_free (s : State) (h : Handle) (f : Action → Action) :
    (s.updAction h f).free = s.free := by unfold State.updAction; dsimp only; split <;> rfl
@[simp] theorem State.updAction_pending (s : State) (h : Handle) (f : Action → Action) :
    (s.updAction h f).pending = s.pending := by unfold State.updAction; dsimp only; split <;> rfl
@[simp] theorem State.updAction_port (s : State) (h : Handle) (f : Action → Action) (q : Port) :
    (s.updAction h f).port q = s.port q := by unfold State.updAction; dsimp only; split <;> rfl
@[simp] theorem State.updAction_channel (s : State) (h : Handle) (f : Action → Action) (d : Fin 16) :
    (s.updAction h f).channel d = s.channel d := by unfold State.updAction; dsimp only; split <;> rfl
@[simp] theorem State.updAction_input (s : State) (h : Handle) (f : Action → Action) (j : Fin 8) :
    (s.updAction h f).input j = s.input j := by unfold State.updAction; dsimp only; split <;> rfl
@[simp] theorem State.updAction_lease (s : State) (h : Handle) (f : Action → Action) (q : Fin 33) :
    (s.updAction h f).lease q = s.lease q := by unfold State.updAction; dsimp only; split <;> rfl
@[simp] theorem State.updAction_recipe (s : State) (h : Handle) (f : Action → Action) (j : Fin 8) :
    (s.updAction h f).recipe j = s.recipe j := by unfold State.updAction; dsimp only; split <;> rfl
@[simp] theorem State.updAction_item (s : State) (h : Handle) (f : Action → Action) (m : Half) :
    (s.updAction h f).item? m = s.item? m := by unfold State.updAction; dsimp only; split <;> rfl
@[simp] theorem State.updAction_freeList (s : State) (h : Handle) (f : Action → Action) :
    (s.updAction h f).actions.freeList = s.actions.freeList := by unfold State.updAction; dsimp only; split <;> rfl
@[simp] theorem State.updAction_bindCount (s : State) (h : Handle) (f : Action → Action) :
    (s.updAction h f).actions.bindCount = s.actions.bindCount := by unfold State.updAction; dsimp only; split <;> rfl
@[simp] theorem State.updAction_schedules (s : State) (h : Handle) (f : Action → Action) :
    (s.updAction h f).actions.schedules = s.actions.schedules := by unfold State.updAction; dsimp only; split <;> rfl

/-! #### State.freeEntry -/

@[simp] theorem State.freeEntry_rstn (s : State) (i : Fin 256) : (s.freeEntry i).rstn = s.rstn := rfl
@[simp] theorem State.freeEntry_pos (s : State) (i : Fin 256) : (s.freeEntry i).pos = s.pos := rfl
@[simp] theorem State.freeEntry_line (s : State) (i : Fin 256) : (s.freeEntry i).line = s.line := rfl
@[simp] theorem State.freeEntry_inputs (s : State) (i : Fin 256) : (s.freeEntry i).inputs = s.inputs := rfl
@[simp] theorem State.freeEntry_items (s : State) (i : Fin 256) : (s.freeEntry i).items = s.items := rfl
@[simp] theorem State.freeEntry_recipes (s : State) (i : Fin 256) : (s.freeEntry i).recipes = s.recipes := rfl
@[simp] theorem State.freeEntry_channels (s : State) (i : Fin 256) : (s.freeEntry i).channels = s.channels := rfl
@[simp] theorem State.freeEntry_hold (s : State) (i : Fin 256) : (s.freeEntry i).hold = s.hold := rfl
@[simp] theorem State.freeEntry_leases (s : State) (i : Fin 256) : (s.freeEntry i).leases = s.leases := rfl
@[simp] theorem State.freeEntry_ports (s : State) (i : Fin 256) : (s.freeEntry i).ports = s.ports := rfl
@[simp] theorem State.freeEntry_free (s : State) (i : Fin 256) : (s.freeEntry i).free = s.free := rfl
@[simp] theorem State.freeEntry_pending (s : State) (i : Fin 256) : (s.freeEntry i).pending = s.pending := rfl
@[simp] theorem State.freeEntry_port (s : State) (i : Fin 256) (q : Port) :
    (s.freeEntry i).port q = s.port q := rfl
@[simp] theorem State.freeEntry_channel (s : State) (i : Fin 256) (d : Fin 16) :
    (s.freeEntry i).channel d = s.channel d := rfl
@[simp] theorem State.freeEntry_input (s : State) (i : Fin 256) (j : Fin 8) :
    (s.freeEntry i).input j = s.input j := rfl
@[simp] theorem State.freeEntry_lease (s : State) (i : Fin 256) (q : Fin 33) :
    (s.freeEntry i).lease q = s.lease q := rfl
@[simp] theorem State.freeEntry_recipe (s : State) (i : Fin 256) (j : Fin 8) :
    (s.freeEntry i).recipe j = s.recipe j := rfl
@[simp] theorem State.freeEntry_item (s : State) (i : Fin 256) (m : Half) :
    (s.freeEntry i).item? m = s.item? m := rfl

/-! #### State.offerTo -/

@[simp] theorem State.offerTo_rstn (s : State) (p : Port) (n : Half) (x : Position) (b : NoticeBody) :
    (s.offerTo p n x b).rstn = s.rstn := rfl
@[simp] theorem State.offerTo_pos (s : State) (p : Port) (n : Half) (x : Position) (b : NoticeBody) :
    (s.offerTo p n x b).pos = s.pos := rfl
@[simp] theorem State.offerTo_line (s : State) (p : Port) (n : Half) (x : Position) (b : NoticeBody) :
    (s.offerTo p n x b).line = s.line := rfl
@[simp] theorem State.offerTo_inputs (s : State) (p : Port) (n : Half) (x : Position) (b : NoticeBody) :
    (s.offerTo p n x b).inputs = s.inputs := rfl
@[simp] theorem State.offerTo_items (s : State) (p : Port) (n : Half) (x : Position) (b : NoticeBody) :
    (s.offerTo p n x b).items = s.items := rfl
@[simp] theorem State.offerTo_recipes (s : State) (p : Port) (n : Half) (x : Position) (b : NoticeBody) :
    (s.offerTo p n x b).recipes = s.recipes := rfl
@[simp] theorem State.offerTo_actions (s : State) (p : Port) (n : Half) (x : Position) (b : NoticeBody) :
    (s.offerTo p n x b).actions = s.actions := rfl
@[simp] theorem State.offerTo_channels (s : State) (p : Port) (n : Half) (x : Position) (b : NoticeBody) :
    (s.offerTo p n x b).channels = s.channels := rfl
@[simp] theorem State.offerTo_hold (s : State) (p : Port) (n : Half) (x : Position) (b : NoticeBody) :
    (s.offerTo p n x b).hold = s.hold := rfl
@[simp] theorem State.offerTo_leases (s : State) (p : Port) (n : Half) (x : Position) (b : NoticeBody) :
    (s.offerTo p n x b).leases = s.leases := rfl
@[simp] theorem State.offerTo_free (s : State) (p : Port) (n : Half) (x : Position) (b : NoticeBody) :
    (s.offerTo p n x b).free = s.free := rfl
@[simp] theorem State.offerTo_pending (s : State) (p : Port) (n : Half) (x : Position) (b : NoticeBody) :
    (s.offerTo p n x b).pending = s.pending := rfl
@[simp] theorem State.offerTo_channel (s : State) (p : Port) (n : Half) (x : Position) (b : NoticeBody) (d : Fin 16) :
    (s.offerTo p n x b).channel d = s.channel d := rfl
@[simp] theorem State.offerTo_input (s : State) (p : Port) (n : Half) (x : Position) (b : NoticeBody) (j : Fin 8) :
    (s.offerTo p n x b).input j = s.input j := rfl
@[simp] theorem State.offerTo_lease (s : State) (p : Port) (n : Half) (x : Position) (b : NoticeBody) (q : Fin 33) :
    (s.offerTo p n x b).lease q = s.lease q := rfl
@[simp] theorem State.offerTo_recipe (s : State) (p : Port) (n : Half) (x : Position) (b : NoticeBody) (j : Fin 8) :
    (s.offerTo p n x b).recipe j = s.recipe j := rfl
@[simp] theorem State.offerTo_item (s : State) (p : Port) (n : Half) (x : Position) (b : NoticeBody) (m : Half) :
    (s.offerTo p n x b).item? m = s.item? m := rfl
@[simp] theorem State.offerTo_entry (s : State) (p : Port) (n : Half) (x : Position) (b : NoticeBody) (j : Fin 256) :
    (s.offerTo p n x b).entry j = s.entry j := rfl
@[simp] theorem State.offerTo_action (s : State) (p : Port) (n : Half) (x : Position) (b : NoticeBody) (g : Handle) :
    (s.offerTo p n x b).action? g = s.action? g := rfl
@[simp] theorem State.offerTo_schedule (s : State) (p : Port) (n : Half) (x : Position) (b : NoticeBody) (d : Fin 16) :
    (s.offerTo p n x b).schedule d = s.schedule d := rfl

/-! #### State.offerReport -/

@[simp] theorem State.offerReport_rstn (s : State) (p : Option Port) (n : Half) (x : Position) (b : NoticeBody) :
    (s.offerReport p n x b).rstn = s.rstn := by cases p <;> rfl
@[simp] theorem State.offerReport_pos (s : State) (p : Option Port) (n : Half) (x : Position) (b : NoticeBody) :
    (s.offerReport p n x b).pos = s.pos := by cases p <;> rfl
@[simp] theorem State.offerReport_line (s : State) (p : Option Port) (n : Half) (x : Position) (b : NoticeBody) :
    (s.offerReport p n x b).line = s.line := by cases p <;> rfl
@[simp] theorem State.offerReport_inputs (s : State) (p : Option Port) (n : Half) (x : Position) (b : NoticeBody) :
    (s.offerReport p n x b).inputs = s.inputs := by cases p <;> rfl
@[simp] theorem State.offerReport_items (s : State) (p : Option Port) (n : Half) (x : Position) (b : NoticeBody) :
    (s.offerReport p n x b).items = s.items := by cases p <;> rfl
@[simp] theorem State.offerReport_recipes (s : State) (p : Option Port) (n : Half) (x : Position) (b : NoticeBody) :
    (s.offerReport p n x b).recipes = s.recipes := by cases p <;> rfl
@[simp] theorem State.offerReport_actions (s : State) (p : Option Port) (n : Half) (x : Position) (b : NoticeBody) :
    (s.offerReport p n x b).actions = s.actions := by cases p <;> rfl
@[simp] theorem State.offerReport_channels (s : State) (p : Option Port) (n : Half) (x : Position) (b : NoticeBody) :
    (s.offerReport p n x b).channels = s.channels := by cases p <;> rfl
@[simp] theorem State.offerReport_hold (s : State) (p : Option Port) (n : Half) (x : Position) (b : NoticeBody) :
    (s.offerReport p n x b).hold = s.hold := by cases p <;> rfl
@[simp] theorem State.offerReport_leases (s : State) (p : Option Port) (n : Half) (x : Position) (b : NoticeBody) :
    (s.offerReport p n x b).leases = s.leases := by cases p <;> rfl
@[simp] theorem State.offerReport_free (s : State) (p : Option Port) (n : Half) (x : Position) (b : NoticeBody) :
    (s.offerReport p n x b).free = s.free := by cases p <;> rfl
@[simp] theorem State.offerReport_pending (s : State) (p : Option Port) (n : Half) (x : Position) (b : NoticeBody) :
    (s.offerReport p n x b).pending = s.pending := by cases p <;> rfl
@[simp] theorem State.offerReport_channel (s : State) (p : Option Port) (n : Half) (x : Position) (b : NoticeBody) (d : Fin 16) :
    (s.offerReport p n x b).channel d = s.channel d := by cases p <;> rfl
@[simp] theorem State.offerReport_input (s : State) (p : Option Port) (n : Half) (x : Position) (b : NoticeBody) (j : Fin 8) :
    (s.offerReport p n x b).input j = s.input j := by cases p <;> rfl
@[simp] theorem State.offerReport_lease (s : State) (p : Option Port) (n : Half) (x : Position) (b : NoticeBody) (q : Fin 33) :
    (s.offerReport p n x b).lease q = s.lease q := by cases p <;> rfl
@[simp] theorem State.offerReport_recipe (s : State) (p : Option Port) (n : Half) (x : Position) (b : NoticeBody) (j : Fin 8) :
    (s.offerReport p n x b).recipe j = s.recipe j := by cases p <;> rfl
@[simp] theorem State.offerReport_item (s : State) (p : Option Port) (n : Half) (x : Position) (b : NoticeBody) (m : Half) :
    (s.offerReport p n x b).item? m = s.item? m := by cases p <;> rfl
@[simp] theorem State.offerReport_entry (s : State) (p : Option Port) (n : Half) (x : Position) (b : NoticeBody) (j : Fin 256) :
    (s.offerReport p n x b).entry j = s.entry j := by cases p <;> rfl
@[simp] theorem State.offerReport_action (s : State) (p : Option Port) (n : Half) (x : Position) (b : NoticeBody) (g : Handle) :
    (s.offerReport p n x b).action? g = s.action? g := by cases p <;> rfl
@[simp] theorem State.offerReport_schedule (s : State) (p : Option Port) (n : Half) (x : Position) (b : NoticeBody) (d : Fin 16) :
    (s.offerReport p n x b).schedule d = s.schedule d := by cases p <;> rfl

/-! #### State.post -/

@[simp] theorem State.post_rstn (s : State) (n : Half) (x : Position) (b : NoticeBody) :
    (s.post n x b).rstn = s.rstn := by unfold State.post; split <;> rfl
@[simp] theorem State.post_pos (s : State) (n : Half) (x : Position) (b : NoticeBody) :
    (s.post n x b).pos = s.pos := by unfold State.post; split <;> rfl
@[simp] theorem State.post_line (s : State) (n : Half) (x : Position) (b : NoticeBody) :
    (s.post n x b).line = s.line := by unfold State.post; split <;> rfl
@[simp] theorem State.post_inputs (s : State) (n : Half) (x : Position) (b : NoticeBody) :
    (s.post n x b).inputs = s.inputs := by unfold State.post; split <;> rfl
@[simp] theorem State.post_items (s : State) (n : Half) (x : Position) (b : NoticeBody) :
    (s.post n x b).items = s.items := by unfold State.post; split <;> rfl
@[simp] theorem State.post_recipes (s : State) (n : Half) (x : Position) (b : NoticeBody) :
    (s.post n x b).recipes = s.recipes := by unfold State.post; split <;> rfl
@[simp] theorem State.post_actions (s : State) (n : Half) (x : Position) (b : NoticeBody) :
    (s.post n x b).actions = s.actions := by unfold State.post; split <;> rfl
@[simp] theorem State.post_channels (s : State) (n : Half) (x : Position) (b : NoticeBody) :
    (s.post n x b).channels = s.channels := by unfold State.post; split <;> rfl
@[simp] theorem State.post_hold (s : State) (n : Half) (x : Position) (b : NoticeBody) :
    (s.post n x b).hold = s.hold := by unfold State.post; split <;> rfl
@[simp] theorem State.post_leases (s : State) (n : Half) (x : Position) (b : NoticeBody) :
    (s.post n x b).leases = s.leases := by unfold State.post; split <;> rfl
@[simp] theorem State.post_free (s : State) (n : Half) (x : Position) (b : NoticeBody) :
    (s.post n x b).free = s.free := by unfold State.post; split <;> rfl
@[simp] theorem State.post_pending (s : State) (n : Half) (x : Position) (b : NoticeBody) :
    (s.post n x b).pending = s.pending := by unfold State.post; split <;> rfl
@[simp] theorem State.post_channel (s : State) (n : Half) (x : Position) (b : NoticeBody) (d : Fin 16) :
    (s.post n x b).channel d = s.channel d := by unfold State.post; split <;> rfl
@[simp] theorem State.post_input (s : State) (n : Half) (x : Position) (b : NoticeBody) (j : Fin 8) :
    (s.post n x b).input j = s.input j := by unfold State.post; split <;> rfl
@[simp] theorem State.post_lease (s : State) (n : Half) (x : Position) (b : NoticeBody) (q : Fin 33) :
    (s.post n x b).lease q = s.lease q := by unfold State.post; split <;> rfl
@[simp] theorem State.post_recipe (s : State) (n : Half) (x : Position) (b : NoticeBody) (j : Fin 8) :
    (s.post n x b).recipe j = s.recipe j := by unfold State.post; split <;> rfl
@[simp] theorem State.post_item (s : State) (n : Half) (x : Position) (b : NoticeBody) (m : Half) :
    (s.post n x b).item? m = s.item? m := by unfold State.post; split <;> rfl
@[simp] theorem State.post_entry (s : State) (n : Half) (x : Position) (b : NoticeBody) (j : Fin 256) :
    (s.post n x b).entry j = s.entry j := by unfold State.post; split <;> rfl
@[simp] theorem State.post_action (s : State) (n : Half) (x : Position) (b : NoticeBody) (g : Handle) :
    (s.post n x b).action? g = s.action? g := by unfold State.post; split <;> rfl
@[simp] theorem State.post_schedule (s : State) (n : Half) (x : Position) (b : NoticeBody) (d : Fin 16) :
    (s.post n x b).schedule d = s.schedule d := by unfold State.post; split <;> rfl

/-! #### State.placeReply -/

@[simp] theorem State.placeReply_rstn (s : State) (p : Port) (code seq : Byte) (r : Result) (w : List Byte) :
    (s.placeReply p code seq r w).rstn = s.rstn := rfl
@[simp] theorem State.placeReply_pos (s : State) (p : Port) (code seq : Byte) (r : Result) (w : List Byte) :
    (s.placeReply p code seq r w).pos = s.pos := rfl
@[simp] theorem State.placeReply_line (s : State) (p : Port) (code seq : Byte) (r : Result) (w : List Byte) :
    (s.placeReply p code seq r w).line = s.line := rfl
@[simp] theorem State.placeReply_inputs (s : State) (p : Port) (code seq : Byte) (r : Result) (w : List Byte) :
    (s.placeReply p code seq r w).inputs = s.inputs := rfl
@[simp] theorem State.placeReply_items (s : State) (p : Port) (code seq : Byte) (r : Result) (w : List Byte) :
    (s.placeReply p code seq r w).items = s.items := rfl
@[simp] theorem State.placeReply_recipes (s : State) (p : Port) (code seq : Byte) (r : Result) (w : List Byte) :
    (s.placeReply p code seq r w).recipes = s.recipes := rfl
@[simp] theorem State.placeReply_actions (s : State) (p : Port) (code seq : Byte) (r : Result) (w : List Byte) :
    (s.placeReply p code seq r w).actions = s.actions := rfl
@[simp] theorem State.placeReply_channels (s : State) (p : Port) (code seq : Byte) (r : Result) (w : List Byte) :
    (s.placeReply p code seq r w).channels = s.channels := rfl
@[simp] theorem State.placeReply_hold (s : State) (p : Port) (code seq : Byte) (r : Result) (w : List Byte) :
    (s.placeReply p code seq r w).hold = s.hold := rfl
@[simp] theorem State.placeReply_leases (s : State) (p : Port) (code seq : Byte) (r : Result) (w : List Byte) :
    (s.placeReply p code seq r w).leases = s.leases := rfl
@[simp] theorem State.placeReply_free (s : State) (p : Port) (code seq : Byte) (r : Result) (w : List Byte) :
    (s.placeReply p code seq r w).free = s.free := rfl
@[simp] theorem State.placeReply_pending (s : State) (p : Port) (code seq : Byte) (r : Result) (w : List Byte) :
    (s.placeReply p code seq r w).pending = s.pending := rfl
@[simp] theorem State.placeReply_channel (s : State) (p : Port) (code seq : Byte) (r : Result) (w : List Byte) (d : Fin 16) :
    (s.placeReply p code seq r w).channel d = s.channel d := rfl
@[simp] theorem State.placeReply_input (s : State) (p : Port) (code seq : Byte) (r : Result) (w : List Byte) (j : Fin 8) :
    (s.placeReply p code seq r w).input j = s.input j := rfl
@[simp] theorem State.placeReply_lease (s : State) (p : Port) (code seq : Byte) (r : Result) (w : List Byte) (q : Fin 33) :
    (s.placeReply p code seq r w).lease q = s.lease q := rfl
@[simp] theorem State.placeReply_recipe (s : State) (p : Port) (code seq : Byte) (r : Result) (w : List Byte) (j : Fin 8) :
    (s.placeReply p code seq r w).recipe j = s.recipe j := rfl
@[simp] theorem State.placeReply_item (s : State) (p : Port) (code seq : Byte) (r : Result) (w : List Byte) (m : Half) :
    (s.placeReply p code seq r w).item? m = s.item? m := rfl
@[simp] theorem State.placeReply_entry (s : State) (p : Port) (code seq : Byte) (r : Result) (w : List Byte) (j : Fin 256) :
    (s.placeReply p code seq r w).entry j = s.entry j := rfl
@[simp] theorem State.placeReply_action (s : State) (p : Port) (code seq : Byte) (r : Result) (w : List Byte) (g : Handle) :
    (s.placeReply p code seq r w).action? g = s.action? g := rfl
@[simp] theorem State.placeReply_schedule (s : State) (p : Port) (code seq : Byte) (r : Result) (w : List Byte) (d : Fin 16) :
    (s.placeReply p code seq r w).schedule d = s.schedule d := rfl

end Sys2Proof.Machine
end

