-- ==== Sys2Proof/Laws/Notices.lean ====
section
/-! SUPPORT. What offering notices can do to a port (R185 to R187), said once: `Offered a b` when `b` is `a` after any
number of offers. -/
namespace Sys2Proof.Machine

/-- `b` is `a` after any number of offered notices. -/
inductive PortState.Offered (a : PortState) : PortState → Prop
  | refl : Offered a a
  | offer {b : PortState} (h : Offered a b) (n : Half) (x : Position) (body : NoticeBody) :
      Offered a (b.offer n x body)

namespace PortState

theorem Offered.trans {a b c : PortState} (h1 : a.Offered b) (h2 : b.Offered c) : a.Offered c := by
  induction h2 with
  | refl => exact h1
  | offer _ n x body ih => exact ih.offer n x body

theorem offered_offer (a : PortState) (n : Half) (x : Position) (body : NoticeBody) :
    a.Offered (a.offer n x body) :=
  Offered.refl.offer n x body

theorem offered_offerClass (a : PortState) (c : NoticeClass) (n : Half) (x : Position) (body : NoticeBody) :
    a.Offered (a.offerClass c n x body) := by
  unfold offerClass
  split
  · exact a.offered_offer n x body
  · exact .refl

@[simp] theorem offer_session (a : PortState) (n : Half) (x : Position) (body : NoticeBody) :
    (a.offer n x body).session = a.session := by
  unfold offer enqueue
  split
  · split <;> rfl
  · rfl

@[simp] theorem offer_csnLow (a : PortState) (n : Half) (x : Position) (body : NoticeBody) :
    (a.offer n x body).csnLow = a.csnLow := by
  unfold offer enqueue
  split
  · split <;> rfl
  · rfl

@[simp] theorem offer_transaction (a : PortState) (n : Half) (x : Position) (body : NoticeBody) :
    (a.offer n x body).transaction = a.transaction := by
  unfold offer enqueue
  split
  · split <;> rfl
  · rfl

@[simp] theorem offer_waiting (a : PortState) (n : Half) (x : Position) (body : NoticeBody) :
    (a.offer n x body).waiting = a.waiting := by
  unfold offer enqueue
  split
  · split <;> rfl
  · rfl

@[simp] theorem offer_slot (a : PortState) (n : Half) (x : Position) (body : NoticeBody) :
    (a.offer n x body).slot = a.slot := by
  unfold offer enqueue
  split
  · split <;> rfl
  · rfl

theorem offer_queue_prefix (a : PortState) (n : Half) (x : Position) (body : NoticeBody) :
    a.queue <+: (a.offer n x body).queue := by
  unfold offer enqueue
  split
  · split
    · exact List.prefix_append _ _
    · exact List.prefix_refl _
  · exact List.prefix_refl _

/-- An offer to a port without a session is discarded (R186). -/
theorem offer_detached {a : PortState} (h : a.session.attached = false) (n : Half) (x : Position)
    (body : NoticeBody) : a.offer n x body = a := by
  simp [offer, h]

/-- Offers change the queue's tail, the next serial and the lost count alone. -/
theorem Offered.onlyNotices {a b : PortState} (h : a.Offered b) : a.OnlyNotices b := by
  induction h with
  | refl => exact ⟨rfl, rfl, rfl, rfl, rfl, List.prefix_refl _⟩
  | @offer b _ n x body ih =>
    exact ⟨by simp [ih.session], by simp [ih.csnLow], by simp [ih.transaction], by simp [ih.waiting],
      by simp [ih.slot], ih.queue.trans (b.offer_queue_prefix n x body)⟩

/-- Offers to a port without a session change nothing. -/
theorem Offered.eq_of_detached {a b : PortState} (h : a.Offered b) (d : a.session.attached = false) : b = a := by
  induction h with
  | refl => rfl
  | offer _ n x body ih => rw [ih]; exact offer_detached d n x body

/-- A run of serials extended by a notice that carries the next serial (R185). -/
theorem serialsRun_append (q : List Notice) (next : Byte) (n : Notice) (h : SerialsRun q next)
    (hn : n.serial = next) : SerialsRun (q ++ [n]) (next + 1) := by
  induction q with
  | nil => simp [SerialsRun, hn]
  | cons x xs ih =>
    cases xs with
    | nil => simpa [SerialsRun, hn] using h
    | cons y ys => exact ⟨h.1, ih h.2⟩

/-- A run of serials whose oldest notices are gone (R189). -/
theorem serialsRun_drop (q : List Notice) (next : Byte) (k : Nat) (h : SerialsRun q next) :
    SerialsRun (q.drop k) next := by
  induction q generalizing k with
  | nil => simp [SerialsRun]
  | cons x xs ih =>
    cases k with
    | zero => exact h
    | succ k =>
      cases xs with
      | nil => simp [SerialsRun]
      | cons y ys => exact ih k h.2

theorem saturatingSucc_ne_zero (c : Half) : saturatingSucc c ≠ 0 := by
  unfold saturatingSucc
  split
  · subst_vars; decide
  · bv_omega

/-- An offer keeps R185 and R187. -/
theorem QueueSound.offer {a : PortState} (h : a.QueueSound) (n : Half) (x : Position) (body : NoticeBody) :
    (a.offer n x body).QueueSound := by
  unfold PortState.offer enqueue
  split
  · rename_i att
    split
    · rename_i room
      exact ⟨by simpa using room, serialsRun_append _ _ _ h.serials rfl,
        fun l => absurd (h.lostOnlyFull l) (by omega), fun d => by simp [att] at d⟩
    · rename_i full
      exact ⟨h.bounded, h.serials, fun _ => by have := h.bounded; simp only; omega, fun d => by simp [att] at d⟩
  · exact h

/-- Offers keep R185 and R187. -/
theorem QueueSound.offered {a b : PortState} (h : a.QueueSound) (o : a.Offered b) : b.QueueSound := by
  induction o with
  | refl => exact h
  | offer _ n x body ih => exact ih.offer n x body

end PortState

/-! ### Offers at the state -/

/-- Every port has received offers only. -/
def State.PortsOffered (s t : State) : Prop := ∀ p, (s.port p).Offered (t.port p)

theorem State.PortsOffered.refl (s : State) : s.PortsOffered s := fun _ => .refl

theorem State.PortsOffered.of_eq {s t : State} (h : t.ports = s.ports) : s.PortsOffered t := by
  intro p
  simp only [State.port, h]
  exact .refl

theorem State.PortsOffered.trans {s t u : State} (h1 : s.PortsOffered t) (h2 : t.PortsOffered u) :
    s.PortsOffered u :=
  fun p => (h1 p).trans (h2 p)

theorem State.offerTo_offered (s : State) (p : Port) (n : Half) (x : Position) (b : NoticeBody) :
    s.PortsOffered (s.offerTo p n x b) := by
  intro q
  rw [State.offerTo, State.port_updPort]
  split
  · subst_vars; exact PortState.offered_offer _ n x b
  · exact .refl

theorem State.offerReport_offered (s : State) (p : Option Port) (n : Half) (x : Position) (b : NoticeBody) :
    s.PortsOffered (s.offerReport p n x b) := by
  cases p with
  | none => exact .refl s
  | some p => exact s.offerTo_offered p n x b

theorem State.post_port (s : State) (n : Half) (x : Position) (b : NoticeBody) {c : NoticeClass}
    (h : noticeClass b = some c) (q : Port) : (s.post n x b).port q = (s.port q).offerClass c n x b := by
  simp only [State.post, h]
  cases q <;> rfl

theorem State.post_offered (s : State) (n : Half) (x : Position) (b : NoticeBody) : s.PortsOffered (s.post n x b) := by
  intro q
  cases h : noticeClass b with
  | none => simp only [State.post, h]; exact .refl
  | some c => rw [s.post_port n x b h q]; exact PortState.offered_offerClass _ c n x b

/-- Posting a notice of a class, in the words of the claims. -/
theorem State.post_posted (s : State) (n : Half) (x : Position) (b : NoticeBody) {c : NoticeClass}
    (h : noticeClass b = some c) : s.Posted (s.post n x b) c n x b := by
  intro q
  rw [s.post_port n x b h q]
  unfold PortState.offerClass PortState.offer PortState.enqueue
  by_cases h1 : (s.port q).session.attached <;> by_cases h2 : (s.port q).session.classes.includes c <;>
    simp [h1, h2]

end Sys2Proof.Machine
end

