-- ==== Sys2Proof/Laws/Endings.lean ====
section
/-! SUPPORT. What the endings of actions and the removals of items can do (R46, R47, R93), said once: the relation
`State.Ends`, and one lemma for each operation that ends or removes. -/
namespace Sys2Proof.Machine

/-- A relation that holds along every step of a fold holds along the fold. -/
theorem foldl_related {α σ : Type} (R : σ → σ → Prop) (refl : ∀ s, R s s)
    (trans : ∀ s t u, R s t → R t u → R s u) (f : σ → α → σ) (step : ∀ s x, R s (f s x)) (xs : List α) (s : σ) :
    R s (xs.foldl f s) := by
  induction xs generalizing s with
  | nil => exact refl s
  | cons x xs ih => exact trans _ _ _ (step s x) (ih _)

/-- A channel after any number of actions have left its sets (R139). -/
inductive Channel.Leaves (a : Channel) : Channel → Prop
  | refl : Leaves a a
  | leave {b : Channel} (h : Leaves a b) (x : Handle) : Leaves a (b.leave x)

theorem Channel.Leaves.trans {a b c : Channel} (h1 : a.Leaves b) (h2 : b.Leaves c) : a.Leaves c := by
  induction h2 with
  | refl => exact h1
  | leave _ x ih => exact ih.leave x

/-- What endings leave of an item's record: everything but its action list, and its state where it becomes LEAVING. -/
structure Item.Keeps (a b : Item) : Prop where
  number : b.number = a.number
  state : b.state = a.state ∨ b.state = .leaving
  entry : b.entry = a.entry
  length : b.length = a.length
  correction : b.correction = a.correction
  recipe : b.recipe = a.recipe
  slots : b.slots = a.slots
  marks : b.marks = a.marks
  flags : b.flags = a.flags
  missing : b.missing = a.missing
  actions : b.actions.Sublist a.actions

theorem Item.Keeps.refl (a : Item) : a.Keeps a :=
  ⟨rfl, .inl rfl, rfl, rfl, rfl, rfl, rfl, rfl, rfl, rfl, List.Sublist.refl _⟩

theorem Item.Keeps.trans {a b c : Item} (h1 : a.Keeps b) (h2 : b.Keeps c) : a.Keeps c :=
  ⟨h2.number.trans h1.number, h2.state.elim (fun e => e ▸ h1.state) .inr, h2.entry.trans h1.entry, h2.length.trans h1.length,
    h2.correction.trans h1.correction, h2.recipe.trans h1.recipe, h2.slots.trans h1.slots, h2.marks.trans h1.marks,
    h2.flags.trans h1.flags, h2.missing.trans h1.missing, h2.actions.trans h1.actions⟩

/-- Everything that the endings of actions, and the removals of items that they call for, can do to the state. -/
structure State.Ends (s t : State) : Prop where
  rstn : t.rstn = s.rstn
  pos : t.pos = s.pos
  line : t.line = s.line
  inputs : t.inputs = s.inputs
  hold : t.hold = s.hold
  leases : t.leases = s.leases
  free : t.free = s.free
  pending : t.pending = s.pending
  current : t.recipes.current = s.recipes.current
  stage : t.recipes.stage = s.recipes.stage
  recipe : ∀ i, (t.recipe i).valid = (s.recipe i).valid ∧ (t.recipe i).body = (s.recipe i).body
  ports : s.PortsOffered t
  channels : ∀ c, (s.channel c).Leaves (t.channel c)
  items : s.ItemsSound → t.ItemsSound
  nextNumber : t.items.nextNumber = s.items.nextNumber
  trailing : t.items.trailing = s.items.trailing
  entryLost : t.items.entryLost = s.items.entryLost
  reEntry : t.items.reEntry = s.items.reEntry
  numbers : (t.items.live.map Item.number).Sublist (s.items.live.map Item.number)
  kept : ∀ y ∈ t.items.live, ∃ x ∈ s.items.live, x.Keeps y
  pool : ∀ i, t.entry i = s.entry i ∨ (t.entry i).action = none
  schedules : ∀ c, (t.schedule c).Sublist (s.schedule c)
  freeList : s.actions.freeList <+: t.actions.freeList
  bindCount : t.actions.bindCount = s.actions.bindCount

namespace State

theorem Ends.refl (s : State) : s.Ends s where
  rstn := rfl
  pos := rfl
  line := rfl
  inputs := rfl
  hold := rfl
  leases := rfl
  free := rfl
  pending := rfl
  current := rfl
  stage := rfl
  recipe := fun _ => ⟨rfl, rfl⟩
  ports := .refl s
  channels := fun _ => .refl
  items := id
  nextNumber := rfl
  trailing := rfl
  entryLost := rfl
  reEntry := rfl
  numbers := List.Sublist.refl _
  kept := fun y hy => ⟨y, hy, .refl y⟩
  pool := fun _ => .inl rfl
  schedules := fun _ => List.Sublist.refl _
  freeList := List.prefix_refl _
  bindCount := rfl

theorem Ends.trans {s t u : State} (h1 : s.Ends t) (h2 : t.Ends u) : s.Ends u where
  rstn := h2.rstn.trans h1.rstn
  pos := h2.pos.trans h1.pos
  line := h2.line.trans h1.line
  inputs := h2.inputs.trans h1.inputs
  hold := h2.hold.trans h1.hold
  leases := h2.leases.trans h1.leases
  free := h2.free.trans h1.free
  pending := h2.pending.trans h1.pending
  current := h2.current.trans h1.current
  stage := h2.stage.trans h1.stage
  recipe := fun i => ⟨(h2.recipe i).1.trans (h1.recipe i).1, (h2.recipe i).2.trans (h1.recipe i).2⟩
  ports := h1.ports.trans h2.ports
  channels := fun c => (h1.channels c).trans (h2.channels c)
  items := h2.items ∘ h1.items
  nextNumber := h2.nextNumber.trans h1.nextNumber
  trailing := h2.trailing.trans h1.trailing
  entryLost := h2.entryLost.trans h1.entryLost
  reEntry := h2.reEntry.trans h1.reEntry
  numbers := h2.numbers.trans h1.numbers
  kept := fun y hy =>
    let ⟨x, hx, k⟩ := h2.kept y hy
    let ⟨w, hw, l⟩ := h1.kept x hx
    ⟨w, hw, l.trans k⟩
  pool := fun i =>
    match h2.pool i with
    | .inr e => .inr e
    | .inl e => by rw [e]; exact h1.pool i
  schedules := fun c => (h2.schedules c).trans (h1.schedules c)
  freeList := h1.freeList.trans h2.freeList
  bindCount := h2.bindCount.trans h1.bindCount

/-- A fold of operations that end is one that ends. -/
theorem Ends.foldl {α : Type} (f : State → α → State) (h : ∀ (s : State) (x : α), s.Ends (f s x)) (xs : List α) (s : State) :
    s.Ends (xs.foldl f s) :=
  foldl_related Ends Ends.refl (fun _ _ _ => Ends.trans) f h xs s

/-- No action is bound by an ending: a handle that named nothing names nothing afterwards. -/
theorem Ends.action_none {s t : State} (e : s.Ends t) {h : Handle} (n : s.action? h = none) : t.action? h = none := by
  unfold action? at *
  rcases e.pool (handleIndex h) with p | p
  · rw [p]; exact n
  · simp [p]

/-- An action bound after endings is one that was bound before them, with the same record. -/
theorem Ends.action_eq {s t : State} (e : s.Ends t) {h : Handle} {a : Action} (b : t.action? h = some a) :
    s.action? h = some a := by
  unfold action? at *
  rcases e.pool (handleIndex h) with p | p
  · rw [p] at b; exact b
  · simp [p] at b

/-! ### The updates of which endings are made -/

/-- A record update of items that keeps numbers and recipes keeps R34 and R60. -/
theorem ItemsSound.updItem {s : State} (h : s.ItemsSound) (n : Half) (f : Item → Item)
    (hn : ∀ x, (f x).number = x.number) (hr : ∀ x, (f x).recipe = x.recipe) : (s.updItem n f).ItemsSound := by
  have e1 : (s.updItem n f).items.live.map Item.number = s.items.live.map Item.number := by
    simp only [State.updItem, setLive_live, List.map_map]
    apply List.map_congr_left
    intro x _
    simp only [Function.comp]
    split <;> simp [hn]
  have e2 : ∀ i, (s.updItem n f).items.live.countP (fun it => it.recipe = i) =
      s.items.live.countP (fun it => it.recipe = i) := by
    intro i
    simp only [State.updItem, setLive_live, List.countP_map]
    congr 1
    funext x
    simp only [Function.comp]
    split <;> simp [hr]
  refine ⟨?_, by rw [e1]; exact h.distinct, ?_, h.next, fun i => by rw [e2]; exact h.refCounts i⟩
  · simpa [State.updItem] using h.atMost
  · intro y hy
    have : y.number ∈ (s.updItem n f).items.live.map Item.number := List.mem_map_of_mem hy
    rw [e1] at this
    obtain ⟨x, hx, e⟩ := List.mem_map.1 this
    rw [← e]
    exact h.nonzero x hx

theorem mem_updItem_live {s : State} {n : Half} {f : Item → Item} {y : Item} (hy : y ∈ (s.updItem n f).items.live) :
    ∃ x ∈ s.items.live, y = if x.number = n then f x else x := by
  obtain ⟨x, hx, e⟩ := List.mem_map.1 hy
  exact ⟨x, hx, e.symm⟩

theorem updItem_numbers (s : State) (n : Half) (f : Item → Item) (hn : ∀ x, (f x).number = x.number) :
    (s.updItem n f).items.live.map Item.number = s.items.live.map Item.number := by
  simp only [State.updItem, setLive_live, List.map_map]
  apply List.map_congr_left
  intro x _
  simp only [Function.comp]
  split <;> simp [hn]

/-- An update of an item that keeps what endings keep. -/
theorem Ends.of_updItem (s : State) (n : Half) (f : Item → Item) (h : ∀ x : Item, x.Keeps (f x)) : s.Ends (s.updItem n f) :=
  { Ends.refl s with
    channels := fun _ => .refl
    ports := .refl s
    items := fun i => i.updItem n f (fun x => (h x).number) (fun x => (h x).recipe)
    nextNumber := rfl, trailing := rfl, entryLost := rfl, reEntry := rfl
    numbers := by rw [updItem_numbers s n f (fun x => (h x).number)]
    kept := fun y hy => by
      obtain ⟨x, hx, e⟩ := mem_updItem_live hy
      refine ⟨x, hx, ?_⟩
      rw [e]
      split
      · exact h x
      · exact .refl x
    pool := fun _ => .inl rfl
    schedules := fun _ => List.Sublist.refl _ }

theorem Ends.of_setSchedule (s : State) (c : Fin 16) (hs : List Handle) (h : hs.Sublist (s.schedule c)) :
    s.Ends (s.setSchedule c hs) :=
  { Ends.refl s with
    channels := fun _ => .refl
    ports := .refl s
    items := fun i => ⟨i.atMost, i.distinct, i.nonzero, i.next, i.refCounts⟩
    kept := fun y hy => ⟨y, hy, .refl y⟩
    pool := fun _ => .inl rfl
    schedules := fun d => by
      rw [schedule_setSchedule]
      split
      · subst_vars; exact h
      · exact List.Sublist.refl _ }

theorem Ends.of_offered {s t : State} (h : s.PortsOffered t) (e : t = { s with ports := t.ports }) : s.Ends t := by
  rw [e] at h ⊢
  exact
    { Ends.refl s with
      ports := h
      channels := fun _ => .refl
      items := fun i => ⟨i.atMost, i.distinct, i.nonzero, i.next, i.refCounts⟩
      kept := fun y hy => ⟨y, hy, .refl y⟩
      pool := fun _ => .inl rfl
      schedules := fun _ => List.Sublist.refl _ }

theorem Ends.offerReport (s : State) (p : Option Port) (n : Half) (x : Position) (b : NoticeBody) :
    s.Ends (s.offerReport p n x b) :=
  .of_offered (s.offerReport_offered p n x b) (by cases p <;> rfl)

theorem Ends.post (s : State) (n : Half) (x : Position) (b : NoticeBody) : s.Ends (s.post n x b) :=
  .of_offered (s.post_offered n x b) (by unfold State.post; split <;> rfl)

theorem Ends.offerTo (s : State) (p : Port) (n : Half) (x : Position) (b : NoticeBody) :
    s.Ends (s.offerTo p n x b) :=
  .of_offered (s.offerTo_offered p n x b) rfl

theorem entry_freeEntry (s : State) (i j : Fin 256) :
    (s.freeEntry i).entry j = if j = i then ⟨nextGeneration (s.entry i).generation, none⟩ else s.entry j :=
  s.entry_setEntry i j _

theorem Ends.freeEntry (s : State) (i : Fin 256) : s.Ends (s.freeEntry i) :=
  { Ends.refl s with
    channels := fun _ => .refl
    ports := .refl s
    items := fun i => ⟨i.atMost, i.distinct, i.nonzero, i.next, i.refCounts⟩
    kept := fun y hy => ⟨y, hy, .refl y⟩
    pool := fun j => by
      rw [entry_freeEntry]
      split
      · exact .inr rfl
      · exact .inl rfl
    schedules := fun _ => List.Sublist.refl _
    freeList := List.prefix_append _ _ }

theorem Ends.leaveSet (s : State) (c : Fin 16) (h : Handle) : s.Ends (s.leaveSet c h) :=
  { Ends.refl s with
    ports := .refl s
    channels := fun d => by
      rw [State.leaveSet, channel_updChannel]
      split
      · subst_vars; exact Channel.Leaves.refl.leave h
      · exact .refl
    items := fun i => ⟨i.atMost, i.distinct, i.nonzero, i.next, i.refCounts⟩
    kept := fun y hy => ⟨y, hy, .refl y⟩
    pool := fun _ => .inl rfl
    schedules := fun _ => List.Sublist.refl _ }

/-! ### Endings (R93) -/

theorem Ends.unlist (s : State) (a : Action) : s.Ends (s.unlist a) :=
  (Ends.of_setSchedule s a.channel _ List.filter_sublist).trans
    (.of_updItem _ _ _ (fun _ => ⟨rfl, .inl rfl, rfl, rfl, rfl, rfl, rfl, rfl, rfl, rfl, List.filter_sublist⟩))

/-- Steps 1 to 4 of an ending (R93). -/
theorem Ends.endCore (s : State) (h : Handle) (o : ActionOutcome) : s.Ends (s.endCore h o) := by
  unfold State.endCore
  split
  · exact .refl s
  · rename_i a _
    have e1 : s.Ends (if a.firing then s.leaveSet a.channel h else s) := by
      split
      · exact .leaveSet s _ _
      · exact .refl s
    exact ((e1.trans (.unlist _ a)).trans (.offerReport _ _ _ _ _)).trans (.freeEntry _ _)

theorem Ends.loseArmed (s : State) (hs : List Handle) : s.Ends (s.loseArmed hs) :=
  .foldl _ (fun t h => by split; exact .refl t; exact .endCore t h _) hs s

theorem Ends.cutActions (s : State) (hs : List Handle) : s.Ends (s.cutActions hs) :=
  .foldl _ (fun t h => .endCore t h _) hs s

/-! ### Removals (R44 to R47) -/

theorem mem_of_item {s : State} {n : Half} {it : Item} (h : s.item? n = some it) : it ∈ s.items.live :=
  List.mem_of_find?_eq_some h

theorem number_of_item {s : State} {n : Half} {it : Item} (h : s.item? n = some it) : it.number = n := by
  have := List.find?_some h
  simpa using this

theorem countP_filter_number {xs : List Item} (d : (xs.map Item.number).Nodup) {it : Item} (m : it ∈ xs)
    (p : Item → Bool) :
    (xs.filter (fun x => x.number ≠ it.number)).countP p + (if p it then 1 else 0) = xs.countP p := by
  induction xs with
  | nil => simp at m
  | cons x xs ih =>
    simp only [List.map_cons, List.nodup_cons] at d
    rcases List.mem_cons.1 m with rfl | m
    · have : xs.filter (fun x => x.number ≠ it.number) = xs := by
        rw [List.filter_eq_self]
        intro y hy
        simp only [ne_eq, decide_not, Bool.not_eq_true', decide_eq_false_iff_not]
        intro e
        exact d.1 (e ▸ List.mem_map_of_mem hy)
      rw [List.filter_cons_of_neg (by simp), this, List.countP_cons]
    · have ne : x.number ≠ it.number := fun e => d.1 (e ▸ List.mem_map_of_mem m)
      rw [List.filter_cons_of_pos (by simpa using ne), List.countP_cons, List.countP_cons, ← ih d.2 m]
      omega

/-- Removal of a record (R46) keeps R34 and R60. -/
theorem ItemsSound.removeRecord {s : State} (h : s.ItemsSound) {n : Half} {it : Item} (f : s.item? n = some it) :
    ((s.setLive (s.items.live.filter (fun x => x.number ≠ n))).updRecipe it.recipe
      (fun r => { r with refCount := r.refCount - 1 })).ItemsSound := by
  have num := number_of_item f
  refine ⟨?_, ?_, ?_, h.next, ?_⟩
  · exact (List.length_filter_le _ _).trans h.atMost
  · exact h.distinct.sublist (List.filter_sublist.map _)
  · exact fun y hy => h.nonzero y (List.mem_of_mem_filter hy)
  · intro i
    have c := countP_filter_number h.distinct (mem_of_item f) (fun x => x.recipe = i)
    rw [num] at c
    rw [recipe_updRecipe]
    show _ = (s.items.live.filter (fun x => x.number ≠ n)).countP _
    by_cases e : i = it.recipe
    · subst e
      have r := h.refCounts it.recipe
      simp only [decide_true, if_true] at c
      simp only [setLive_recipe, if_true]
      omega
    · have e' : ¬ it.recipe = i := fun x => e x.symm
      simp only [e', decide_false] at c
      simp only [e, if_false, setLive_recipe]
      rw [h.refCounts i]
      simpa using c.symm

theorem Ends.removeRecord (s : State) (n : Half) (r : ExitReason) : s.Ends (s.removeRecord n r) := by
  unfold State.removeRecord
  split
  · exact .refl s
  · rename_i it f
    refine Ends.trans ?_ (.post _ _ _ _)
    exact
      { Ends.refl s with
        channels := fun _ => .refl
        ports := .refl s
        items := fun i => i.removeRecord f
        recipe := fun i => by
          rw [recipe_updRecipe]
          split
          · subst_vars; exact ⟨rfl, rfl⟩
          · exact ⟨rfl, rfl⟩
        numbers := List.filter_sublist.map _
        kept := fun y hy => ⟨y, List.mem_of_mem_filter hy, .refl y⟩
        pool := fun _ => .inl rfl
        schedules := fun _ => List.Sublist.refl _ }

theorem Ends.reachExit (s : State) : s.Ends s.reachExit.2 := by
  unfold State.reachExit
  split
  · exact .refl s
  · dsimp only
    split
    · exact (Ends.loseArmed s _).trans (.removeRecord _ _ _)
    · exact (Ends.loseArmed s _).trans
        (.of_updItem _ _ _ (fun _ => ⟨rfl, .inr rfl, rfl, rfl, rfl, rfl, rfl, rfl, rfl, rfl, List.Sublist.refl _⟩))

theorem Ends.headCheck (k : Nat) (s : State) : s.Ends (State.headCheck k s) := by
  induction k generalizing s with
  | zero => exact .refl s
  | succ k ih =>
    unfold State.headCheck
    split
    · exact .refl s
    · split
      · split
        · exact (Ends.reachExit s).trans (ih _)
        · exact .reachExit s
      · exact .refl s

theorem Ends.checkHead (s : State) : s.Ends s.checkHead := .headCheck _ s

theorem Ends.exitHead (s : State) : s.Ends s.exitHead := by
  unfold State.exitHead
  split
  · exact (Ends.reachExit s).trans (.checkHead _)
  · exact .reachExit s

theorem Ends.removeItem (s : State) (n : Half) (r : ExitReason) : s.Ends (s.removeItem n r) := by
  unfold State.removeItem
  split
  · exact (Ends.removeRecord s n r).trans (.checkHead _)
  · exact .removeRecord s n r

/-- The whole of an ending (R93). -/
theorem Ends.endAction (s : State) (h : Handle) (o : ActionOutcome) : s.Ends (s.endAction h o) := by
  unfold State.endAction
  split
  · exact .refl s
  · dsimp only
    split
    · split
      · exact (Ends.endCore s h o).trans (.removeItem _ _ _)
      · exact .endCore s h o
    · exact .endCore s h o

/-- Many endings, one after another. -/
theorem Ends.endActions (s : State) (o : ActionOutcome) (hs : List Handle) :
    s.Ends (hs.foldl (fun t h => t.endAction h o) s) :=
  .foldl _ (fun t h => .endAction t h o) hs s

theorem Ends.takeOut (s : State) (n : Half) (r : ExitReason) : s.Ends (s.takeOut n r) := by
  unfold State.takeOut
  split
  · exact .refl s
  · exact (Ends.cutActions s _).trans (.removeItem _ _ _)

/-! ### What an ending ends -/

theorem endCore_action (s : State) (h : Handle) (o : ActionOutcome) : (s.endCore h o).action? h = none := by
  unfold State.endCore
  split
  · assumption
  · simp only [State.action?, entry_freeEntry, if_true]
    simp

theorem endAction_action (s : State) (h : Handle) (o : ActionOutcome) : (s.endAction h o).action? h = none := by
  unfold State.endAction
  split
  · assumption
  · dsimp only
    split
    · split
      · exact (Ends.removeItem _ _ _).action_none (s.endCore_action h o)
      · exact s.endCore_action h o
    · exact s.endCore_action h o

/-- Every handle of a list that is ended names no action afterwards. -/
theorem endActions_action (s : State) (o : ActionOutcome) (hs : List Handle) {h : Handle} (m : h ∈ hs) :
    (hs.foldl (fun t g => t.endAction g o) s).action? h = none := by
  induction hs generalizing s with
  | nil => simp at m
  | cons g gs ih =>
    rcases List.mem_cons.1 m with rfl | m
    · exact (Ends.endActions _ o gs).action_none (s.endAction_action h o)
    · exact ih _ m

end State

/-! ### The rules of the output stage's sets (R137, R139) -/

/-- The combinations of R137 as they stand inside an event: a gap that the count being taken has started has an empty
wait set (R141). -/
def Channel.Inner (ch : Channel) : Prop :=
  match ch.out with
  | .off => ch.onSet = [] ∧ ch.waitSet = [] ∧ ch.gapTimer = none ∧ ch.gapFresh = false
  | .on => ch.onSet ≠ [] ∧ ch.waitSet = [] ∧ ch.gapTimer = none ∧ ch.gapFresh = false
  | .gap => ch.onSet = [] ∧ ch.gapTimer ≠ none ∧ (ch.gapFresh = true → ch.waitSet = [])

theorem Channel.Combination.inner {ch : Channel} (h : ch.Combination) : ch.Inner := by
  unfold Channel.Combination at h
  unfold Channel.Inner
  obtain ⟨f, h⟩ := h
  cases o : ch.out <;> simp only [o] at h ⊢
  · exact ⟨h.1, h.2.1, h.2.2, f⟩
  · exact ⟨h.1, h.2.1, h.2.2, f⟩
  · exact ⟨h.1, h.2, by simp [f]⟩

theorem Channel.Inner.settled {ch : Channel} (h : ch.Inner) : ({ ch with gapFresh := false } : Channel).Combination := by
  unfold Channel.Inner at h
  unfold Channel.Combination
  refine ⟨rfl, ?_⟩
  cases o : ch.out <;> simp only [o] at h ⊢
  · exact ⟨h.1, h.2.1, h.2.2.1⟩
  · exact ⟨h.1, h.2.1, h.2.2.1⟩
  · exact ⟨h.1, h.2.1⟩

theorem Channel.leave_of_mem {ch : Channel} {x : Handle} (h : ch.onSet.contains x = true) :
    ch.leave x =
      if (ch.onSet.filter (fun y => y ≠ x)).isEmpty then
        if ch.minGap = 0 then { ch with onSet := [], out := .off }
        else { ch with onSet := [], out := .gap, gapTimer := some ch.minGap }
      else { ch with onSet := ch.onSet.filter (fun y => y ≠ x) } := by
  unfold Channel.leave
  rw [if_pos h]

theorem Channel.leave_of_not_mem {ch : Channel} {x : Handle} (h : ¬ch.onSet.contains x = true) :
    ch.leave x = { ch with waitSet := ch.waitSet.filter (fun y => y ≠ x) } := by
  unfold Channel.leave
  rw [if_neg h]

theorem Channel.Inner.leave {ch : Channel} (h : ch.Inner) (x : Handle) : (ch.leave x).Inner := by
  unfold Channel.Inner at h
  by_cases m : ch.onSet.contains x = true
  · have o : ch.out = .on := by
      cases o : ch.out <;> simp only [o] at h
      · rw [h.1] at m; simp at m
      · rfl
      · rw [h.1] at m; simp at m
    simp only [o] at h
    rw [Channel.leave_of_mem m]
    split
    · split
      · exact ⟨rfl, h.2.1, h.2.2.1, h.2.2.2⟩
      · exact ⟨rfl, by simp, fun f => by simp [h.2.2.2] at f⟩
    · rename_i ne
      unfold Channel.Inner
      simp only [o]
      exact ⟨fun e => ne (by rw [e]; rfl), h.2.1, h.2.2.1, h.2.2.2⟩
  · rw [Channel.leave_of_not_mem m]
    unfold Channel.Inner
    cases o : ch.out <;> simp only [o] at h ⊢
    · exact ⟨h.1, by simp [h.2.1], h.2.2⟩
    · exact ⟨h.1, by simp [h.2.1], h.2.2⟩
    · exact ⟨h.1, h.2.1, fun f => by simp [h.2.2 f]⟩

theorem Channel.Inner.leaves {a b : Channel} (h : a.Inner) (l : a.Leaves b) : b.Inner := by
  induction l with
  | refl => exact h
  | leave _ x ih => exact ih.leave x

/-- Leaving a set changes no configuration, and puts nothing into a set. -/
structure Channel.SameConfig (a b : Channel) : Prop where
  polarity : b.polarity = a.polarity
  minGap : b.minGap = a.minGap
  policy : b.policy = a.policy
  span : b.span = a.span

theorem Channel.SameConfig.refl (a : Channel) : a.SameConfig a := ⟨rfl, rfl, rfl, rfl⟩

theorem Channel.SameConfig.trans {a b c : Channel} (h1 : a.SameConfig b) (h2 : b.SameConfig c) : a.SameConfig c :=
  ⟨h2.polarity.trans h1.polarity, h2.minGap.trans h1.minGap, h2.policy.trans h1.policy, h2.span.trans h1.span⟩

theorem Channel.leave_config (a : Channel) (x : Handle) : a.SameConfig (a.leave x) := by
  unfold Channel.leave
  split
  · dsimp only
    split
    · split <;> exact ⟨rfl, rfl, rfl, rfl⟩
    · exact ⟨rfl, rfl, rfl, rfl⟩
  · exact ⟨rfl, rfl, rfl, rfl⟩

theorem Channel.leave_fireCount (a : Channel) (x : Handle) : (a.leave x).fireCount = a.fireCount := by
  unfold Channel.leave
  split
  · dsimp only
    split
    · split <;> rfl
    · rfl
  · rfl

theorem Channel.leave_gapFresh (a : Channel) (x : Handle) : (a.leave x).gapFresh = a.gapFresh := by
  unfold Channel.leave
  split
  · dsimp only
    split
    · split <;> rfl
    · rfl
  · rfl

theorem Channel.leave_waitSet_nil {a : Channel} (h : a.waitSet = []) (x : Handle) : (a.leave x).waitSet = [] := by
  unfold Channel.leave
  split
  · dsimp only
    split
    · split <;> exact h
    · exact h
  · simp [h]

theorem Channel.Leaves.config {a b : Channel} (l : a.Leaves b) : a.SameConfig b := by
  induction l with
  | refl => exact .refl a
  | @leave b _ x ih => exact ih.trans (b.leave_config x)

theorem Channel.Leaves.fireCount {a b : Channel} (l : a.Leaves b) : b.fireCount = a.fireCount := by
  induction l with
  | refl => rfl
  | @leave b _ x ih => rw [b.leave_fireCount, ih]

theorem Channel.Leaves.gapFresh {a b : Channel} (l : a.Leaves b) (h : a.gapFresh = false) : b.gapFresh = false := by
  induction l with
  | refl => exact h
  | leave _ x ih => rw [Channel.leave_gapFresh]; exact ih

theorem Channel.Leaves.waitSet_nil {a b : Channel} (l : a.Leaves b) (h : a.waitSet = []) : b.waitSet = [] := by
  induction l with
  | refl => exact h
  | leave _ x ih => exact Channel.leave_waitSet_nil ih x

end Sys2Proof.Machine
end

