-- ==== Sys2Proof/Laws/Runs.lean ====
section
/-! SUPPORT. What everything that a count, an edge or a verdict sets off can do to the state, said once: the relation
`State.Runs`, and one lemma for each operation. -/
namespace Sys2Proof.Machine

/-- Everything that the work inside one event can do. `k` says whether a gap that starts is left unmarked: only a count
marks it (`State.markGaps`; R138, R141). -/
structure State.Runs (k : Prop) (s t : State) : Prop where
  rstn : t.rstn = s.rstn
  lp : t.pos.lp = s.pos.lp
  hwp : t.pos.hwp = s.pos.hwp
  line : t.line = s.line
  inputs : t.inputs = s.inputs
  leases : t.leases = s.leases
  pending : t.pending = s.pending
  body : ∀ i, (t.recipe i).valid = (s.recipe i).valid ∧ (t.recipe i).body = (s.recipe i).body
  recipes : s.RecipesSound → t.RecipesSound
  ports : s.PortsOffered t
  config : ∀ c, (s.channel c).SameConfig (t.channel c)
  inner : (∀ c, (s.channel c).Inner) → ∀ c, (t.channel c).Inner
  fresh : k → ∀ c, (s.channel c).gapFresh = false → (t.channel c).gapFresh = false
  causes : s.CausesSound → t.CausesSound
  items : s.ItemsSound → t.ItemsSound

namespace State

variable {k : Prop}

theorem Runs.refl (s : State) : Runs k s s where
  rstn := rfl
  lp := rfl
  hwp := rfl
  line := rfl
  inputs := rfl
  leases := rfl
  pending := rfl
  body := fun _ => ⟨rfl, rfl⟩
  recipes := id
  ports := .refl s
  config := fun _ => .refl _
  inner := id
  fresh := fun _ _ => id
  causes := id
  items := id

theorem Runs.trans {s t u : State} (h1 : Runs k s t) (h2 : Runs k t u) : Runs k s u where
  rstn := h2.rstn.trans h1.rstn
  lp := h2.lp.trans h1.lp
  hwp := h2.hwp.trans h1.hwp
  line := h2.line.trans h1.line
  inputs := h2.inputs.trans h1.inputs
  leases := h2.leases.trans h1.leases
  pending := h2.pending.trans h1.pending
  body := fun i => ⟨(h2.body i).1.trans (h1.body i).1, (h2.body i).2.trans (h1.body i).2⟩
  recipes := h2.recipes ∘ h1.recipes
  ports := h1.ports.trans h2.ports
  config := fun c => (h1.config c).trans (h2.config c)
  inner := h2.inner ∘ h1.inner
  fresh := fun g c => h2.fresh g c ∘ h1.fresh g c
  causes := h2.causes ∘ h1.causes
  items := h2.items ∘ h1.items

theorem Runs.weaken {s t : State} (h : Runs True s t) : Runs k s t := { h with fresh := fun _ => h.fresh trivial }

theorem Runs.foldl {α : Type} (f : State → α → State) (h : ∀ (s : State) (x : α), Runs k s (f s x)) (xs : List α)
    (s : State) : Runs k s (xs.foldl f s) :=
  foldl_related (Runs k) Runs.refl (fun _ _ _ => Runs.trans) f h xs s

/-- The output stages stay sound across work that leaves gaps unmarked (R137). -/
theorem Runs.channelsSound {s t : State} (r : Runs True s t) (h : s.ChannelsSound) : t.ChannelsSound := by
  intro c
  have f := r.fresh trivial c (h c).1
  have := (r.inner (fun d => (h d).inner) c).settled
  rwa [← f] at this

/-! ### Updates -/

/-- An update of the Action Store, the count of open choices, the motion and the excursion flag. -/
theorem Runs.plain {s t : State}
    (e : t = { s with actions := t.actions, free := t.free,
                      pos := { s.pos with motion := t.pos.motion, excursion := t.pos.excursion } }) : Runs k s t := by
  rw [e]
  exact
    { Runs.refl s with
      recipes := fun h => ⟨h.atMost, h.staged, h.current, h.zero⟩
      ports := .refl s
      config := fun _ => .refl _
      inner := id
      causes := id
      items := fun i => ⟨i.atMost, i.distinct, i.nonzero, i.next, i.refCounts⟩ }

theorem Runs.of_choose (s : State) (n : Nat) : Runs k s (s.choose n).2 := by
  unfold State.choose
  split <;> exact .plain rfl

theorem Runs.of_updAction (s : State) (h : Handle) (f : Action → Action) : Runs k s (s.updAction h f) := by
  apply Runs.plain
  unfold State.updAction
  dsimp only
  split <;> rfl

theorem Runs.of_setSchedule (s : State) (c : Fin 16) (hs : List Handle) : Runs k s (s.setSchedule c hs) := .plain rfl

theorem Runs.of_placeAhead (s : State) (c : Fin 16) (h : Handle) : Runs k s (s.placeAhead c h) := .plain rfl

theorem Runs.of_updItem (s : State) (n : Half) (f : Item → Item) (hn : ∀ x, (f x).number = x.number)
    (hr : ∀ x, (f x).recipe = x.recipe) : Runs k s (s.updItem n f) :=
  { Runs.refl s with
    ports := .refl s
    config := fun _ => .refl _
    inner := id
    recipes := fun h => ⟨h.atMost, h.staged, h.current, h.zero⟩
    causes := id
    items := fun i => i.updItem n f hn hr }

theorem Runs.thenItem {s t : State} (h : Runs k s t) (n : Half) (f : Item → Item) (hn : ∀ x, (f x).number = x.number)
    (hr : ∀ x, (f x).recipe = x.recipe) : Runs k s (t.updItem n f) :=
  h.trans (.of_updItem t n f hn hr)

theorem Runs.of_offered {s t : State} (h : s.PortsOffered t) (e : t = { s with ports := t.ports }) : Runs k s t := by
  rw [e] at h ⊢
  exact
    { Runs.refl s with
      recipes := fun h => ⟨h.atMost, h.staged, h.current, h.zero⟩
      ports := h
      config := fun _ => .refl _
      inner := id
      causes := id
      items := fun i => ⟨i.atMost, i.distinct, i.nonzero, i.next, i.refCounts⟩ }

theorem Runs.post (s : State) (n : Half) (x : Position) (b : NoticeBody) : Runs k s (s.post n x b) :=
  .of_offered (s.post_offered n x b) (by unfold State.post; split <;> rfl)

theorem Runs.thenPost {s t : State} (h : Runs k s t) (n : Half) (x : Position) (b : NoticeBody) :
    Runs k s (t.post n x b) :=
  h.trans (.post t n x b)

theorem Runs.of_ends {s t : State} (e : s.Ends t) : Runs k s t where
  rstn := e.rstn
  lp := by rw [e.pos]
  hwp := by rw [e.pos]
  line := e.line
  inputs := e.inputs
  leases := e.leases
  pending := e.pending
  body := e.recipe
  recipes := fun h =>
    ⟨by rw [e.stage]; exact h.atMost, fun x hx => by rw [(e.recipe _).1]; exact h.staged x (e.stage ▸ hx),
      by rw [e.current, (e.recipe _).1]; exact h.current, by rw [(e.recipe _).1]; exact h.zero⟩
  ports := e.ports
  config := fun c => (e.channels c).config
  inner := fun h c => (h c).leaves (e.channels c)
  fresh := fun _ c h => (e.channels c).gapFresh h
  causes := fun h => by unfold State.CausesSound at *; rw [e.hold, e.line]; exact h
  items := e.items

theorem or_masked {a b m : Half} (ha : a &&& ~~~m = 0) (hb : b &&& ~~~m = 0) : (a ||| b) &&& ~~~m = 0 := by
  rw [BitVec.and_comm, BitVec.and_or_distrib_left, BitVec.and_comm, ha, BitVec.and_comm, hb]; rfl

/-- An assigned hold cause is raised (R150). -/
theorem Runs.raiseHold (s : State) (cause : Half) (hc : cause &&& ~~~allCauses = 0) :
    Runs k s (s.raiseHold cause) := by
  unfold State.raiseHold
  split
  · exact .refl s
  · unfold State.changeHold
    split
    · exact .refl s
    · refine Runs.trans (t := { s with hold := s.hold ||| cause }) ?_ (.post _ _ _ _)
      exact
        { Runs.refl s with
          recipes := fun h => ⟨h.atMost, h.staged, h.current, h.zero⟩
          ports := .refl s
          config := fun _ => .refl _
          inner := id
          causes := fun h => ⟨or_masked h.1 hc, h.2⟩
          items := fun i => ⟨i.atMost, i.distinct, i.nonzero, i.next, i.refCounts⟩ }

theorem Runs.thenRaise {s t : State} (h : Runs k s t) (cause : Half) (hc : cause &&& ~~~allCauses = 0) :
    Runs k s (t.raiseHold cause) :=
  h.trans (.raiseHold t cause hc)

theorem Runs.of_updChannel (s : State) (c : Fin 16) (f : Channel → Channel) (h1 : (s.channel c).SameConfig (f (s.channel c)))
    (h2 : (s.channel c).Inner → (f (s.channel c)).Inner)
    (h3 : k → (s.channel c).gapFresh = false → (f (s.channel c)).gapFresh = false) : Runs k s (s.updChannel c f) :=
  { Runs.refl (k := k) s with
    ports := .refl s
    recipes := fun h => ⟨h.atMost, h.staged, h.current, h.zero⟩
    config := fun d => by
      rw [channel_updChannel]
      split
      · subst_vars; exact h1
      · exact .refl _
    inner := fun h d => by
      rw [channel_updChannel]
      split
      · exact h2 (h c)
      · exact h d
    fresh := fun g d h => by
      rw [channel_updChannel]
      split
      · subst_vars; exact h3 g h
      · exact h
    causes := id
    items := fun i => ⟨i.atMost, i.distinct, i.nonzero, i.next, i.refCounts⟩ }

theorem Runs.of_updRecipe (s : State) (i : Fin 8) (f : Recipe → Recipe) (hv : ∀ r, (f r).valid = r.valid)
    (hb : ∀ r, (f r).body = r.body) (hi : s.ItemsSound → (s.updRecipe i f).ItemsSound) :
    Runs k s (s.updRecipe i f) :=
  { Runs.refl (k := k) s with
    ports := .refl s
    body := fun j => by
      rw [recipe_updRecipe]
      split
      · subst_vars; exact ⟨hv _, hb _⟩
      · exact ⟨rfl, rfl⟩
    recipes := fun h => by
      have v : ∀ j, ((s.updRecipe i f).recipe j).valid = (s.recipe j).valid := fun j => by
        rw [recipe_updRecipe]
        split
        · subst_vars; exact hv _
        · rfl
      exact ⟨h.atMost, fun e he => (v _).trans (h.staged e he), (v _).trans h.current, (v _).trans h.zero⟩
    config := fun _ => .refl _
    inner := id
    causes := id
    items := hi }

/-! ### Firing (R89, R90, R92, R138, R141, R143) -/

theorem Channel.Inner.turnedOn {ch : Channel} (h : ch.Inner) (o : ch.out ≠ .gap) (x : Handle) :
    ({ ch with onSet := ch.onSet ++ [x], out := .on } : Channel).Inner := by
  unfold Channel.Inner at h ⊢
  cases e : ch.out <;> simp only [e] at h o ⊢
  · exact ⟨by simp, h.2.1, h.2.2.1, h.2.2.2⟩
  · exact ⟨by simp, h.2.1, h.2.2.1, h.2.2.2⟩
  · exact absurd rfl o

/-- An action turned ON in a channel that is not in GAP. -/
theorem Runs.turnOn (s : State) (c : Fin 16) (h : Handle) (d : Bool) (o : (s.channel c).out ≠ .gap) :
    Runs k s (s.turnOn c h d) := by
  unfold State.turnOn
  refine (Runs.of_updAction s h _).trans (.of_updChannel _ c _ ⟨rfl, rfl, rfl, rfl⟩ ?_ (fun _ f => f))
  simp only [updAction_channel]
  exact fun i => Channel.Inner.turnedOn i o h

theorem updChannel_updChannel (s : State) (c : Fin 16) (f g : Channel → Channel) :
    (s.updChannel c f).updChannel c g = s.updChannel c (fun ch => g (f ch)) := by
  have e : (s.updChannel c f).channel c = f (s.channel c) := by rw [channel_updChannel, if_pos rfl]
  rw [State.updChannel, e]
  simp only [State.updChannel, Vector.set_set]

theorem updAction_updChannel (s : State) (c : Fin 16) (f : Channel → Channel) (h : Handle) (g : Action → Action) :
    (s.updChannel c f).updAction h g = (s.updAction h g).updChannel c f := by
  unfold State.updAction
  dsimp only [updChannel_entry]
  split <;> rfl

theorem Runs.handOver (s : State) (c : Fin 16) (h : Handle) : Runs k s (s.handOver c h) := by
  have count : Runs k s (s.updChannel c (fun ch => { ch with fireCount := ch.fireCount + 1 })) :=
    .of_updChannel s c _ ⟨rfl, rfl, rfl, rfl⟩ id (fun _ f => f)
  unfold State.handOver
  dsimp only
  split
  · rename_i o
    exact count.trans (.turnOn _ c h false (by simp [channel_updChannel, o]))
  · rename_i o
    exact count.trans (.turnOn _ c h false (by simp [channel_updChannel, o]))
  · rename_i o
    split
    · rename_i f
      simp only [State.turnOn, updChannel_updChannel, updAction_updChannel]
      refine (Runs.of_updAction s h _).trans (.of_updChannel _ c _ ⟨rfl, rfl, rfl, rfl⟩ ?_ (fun _ _ => rfl))
      simp only [updAction_channel]
      intro i
      unfold Channel.Inner at i ⊢
      simp only [o] at i ⊢
      exact ⟨by simp, i.2.2 f, trivial, trivial⟩
    · refine (count.trans (.of_updAction _ h _)).trans (.of_updChannel _ c _ ⟨rfl, rfl, rfl, rfl⟩ ?_ (fun _ f => f))
      rename_i f
      simp only [updAction_channel, channel_updChannel, if_true]
      intro i
      unfold Channel.Inner at i ⊢
      simp only [o] at i ⊢
      exact ⟨i.1, i.2.1, fun g => absurd g (by simpa using f)⟩

theorem Runs.becomeFiring (s : State) (h : Handle) (a : Action) (l : Bool) : Runs k s (s.becomeFiring h a l) :=
  ((Runs.of_updAction s _ _).trans (.of_setSchedule _ _ _)).trans (.handOver _ _ _)

theorem Runs.reachFire (s : State) (h : Handle) (a : Action) : Runs k s (s.reachFire h a) := by
  unfold State.reachFire
  split
  · exact .becomeFiring s h a false
  · exact (Runs.of_updAction s _ _).trans (.of_setSchedule _ _ _)
  · exact .refl s

theorem turnOn_channel (s : State) (c : Fin 16) (h : Handle) (d : Bool) :
    (s.turnOn c h d).channel c = { s.channel c with onSet := (s.channel c).onSet ++ [h], out := .on } := by
  unfold State.turnOn
  rw [channel_updChannel, if_pos rfl, updAction_channel]

theorem Runs.turnOns (c : Fin 16) (d : Bool) (hs : List Handle) (s : State) (o : (s.channel c).out ≠ .gap) :
    Runs k s (hs.foldl (fun t h => t.turnOn c h d) s) := by
  induction hs generalizing s with
  | nil => exact .refl s
  | cons h hs ih => exact (Runs.turnOn s c h d o).trans (ih _ (by simp [turnOn_channel]))

theorem Runs.gapExpiry (s : State) (c : Fin 16) (f : (s.channel c).gapFresh = false) : Runs k s (s.gapExpiry c) := by
  unfold State.gapExpiry
  dsimp only
  split
  · exact .refl s
  · rename_i g
    refine Runs.trans (.of_updChannel s c _ ?_ ?_ ?_) (.turnOns c true _ _ (by simp [channel_updChannel]))
    · exact ⟨rfl, rfl, rfl, rfl⟩
    · intro i
      unfold Channel.Inner at i ⊢
      cases o : (s.channel c).out <;> simp only [o, g] at i ⊢
      · exact absurd i.2.2.1 (by simp)
      · exact absurd i.2.2.1 (by simp)
      · exact ⟨i.1, trivial, trivial, f⟩
    · exact fun _ f => f

/-! ### Verdict slots, checkpoints and watched points (spec 06, 07) -/

theorem Runs.resolveAction (s : State) (slots : PerPort Slot) (h : Handle) : Runs k s (s.resolveAction slots h) := by
  unfold State.resolveAction
  split
  · exact .refl s
  · split
    · exact .refl s
    · split
      · exact .refl s
      · exact (Runs.of_updAction s _ _).trans (.of_ends (.endAction _ _ _))
      · exact .of_updAction s _ _

theorem Runs.fireOverdue (s : State) (h : Handle) : Runs k s (s.fireOverdue h) := by
  unfold State.fireOverdue
  split
  · split
    · exact .becomeFiring s _ _ _
    · exact .refl s
  · exact .refl s

theorem Runs.resolveItem (s : State) (n : Half) : Runs k s (s.resolveItem n) := by
  unfold State.resolveItem
  split
  · exact .refl s
  · exact (Runs.foldl _ (fun t h => .resolveAction t _ h) _ s).trans (.foldl _ .fireOverdue _ _)

theorem Runs.postDecided (s : State) (n : Half) (src : CloseSource) : Runs k s (s.postDecided n src) := by
  unfold State.postDecided
  split
  · exact .refl s
  · dsimp only
    split
    · exact .refl s
    · exact .post _ _ _ _

/-- A close as one event (R111). -/
theorem Runs.closeSlots (s : State) (n : Half) (slots : PerPort Slot) (d : Bool) (src : CloseSource) :
    Runs k s (s.closeSlots n slots d src) := by
  unfold State.closeSlots
  refine Runs.trans ?_ (.postDecided _ n src)
  refine Runs.trans ?_ (.resolveItem _ n)
  have e : Runs k s (s.updItem n (fun it => { it with slots := slots })) :=
    .of_updItem s n _ (fun _ => rfl) (fun _ => rfl)
  split
  · exact e.trans (.raiseHold _ _ (by decide))
  · exact e

theorem Runs.closeAtDecision (s : State) (n : Half) (p : Port) : Runs k s (s.closeAtDecision n p) := by
  unfold State.closeAtDecision
  split
  · exact .refl s
  · split
    · exact .closeSlots s n _ _ _
    · exact .refl s

theorem Runs.forceClose (s : State) (n : Half) : Runs k s (s.forceClose n) := by
  unfold State.forceClose
  split
  · exact .refl s
  · split
    · exact .closeSlots s n _ _ _
    · exact .refl s

theorem Runs.jamItem (s : State) (n : Half) : Runs k s (s.jamItem n) := by
  unfold State.jamItem
  split
  · exact .refl s
  · dsimp only
    refine Runs.thenRaise (Runs.thenPost (Runs.thenItem (.refl s) n _ ?_ ?_) _ _ _) _ (by decide)
    all_goals exact fun _ => rfl

theorem Runs.onMissAction (s : State) (n : Half) (m : OnMiss) : Runs k s (s.onMissAction n m) := by
  cases m
  · exact .refl s
  · exact .raiseHold s _ (by decide)
  · exact .forceClose s n
  · exact .of_ends (.takeOut s n _)

theorem Runs.missCheckpoint (s : State) (n : Half) (i : Fin 8) : Runs k s (s.missCheckpoint n i) := by
  unfold State.missCheckpoint
  split
  · exact .refl s
  · dsimp only
    refine Runs.trans (Runs.thenPost (Runs.thenItem (.refl s) n _ ?_ ?_) _ _ _) (.onMissAction _ n _)
    all_goals exact fun _ => rfl

theorem Runs.actOnPoint (s : State) (n : Half) (w : ItemPoint) : Runs k s (s.actOnPoint n w) := by
  cases w
  · exact .jamItem s n
  · exact .closeAtDecision s n _
  · exact .missCheckpoint s n _
  · exact .of_ends (.exitHead s)

theorem Runs.walkPoints (j : Nat) (x : Option Position) (n : Half) (s : State) :
    Runs k s (State.walkPoints j x n s) := by
  induction j generalizing s with
  | zero => exact .refl s
  | succ j ih =>
    unfold State.walkPoints
    dsimp only
    split
    · exact .refl s
    · exact ((Runs.of_choose s _).trans (.actOnPoint _ n _)).trans (ih _)

theorem Runs.replaceAction (s : State) (h : Handle) : Runs k s (s.replaceAction h) := by
  unfold State.replaceAction
  split
  · exact .refl s
  · split
    · exact .refl s
    · split
      · exact .of_placeAhead s _ h
      · exact (Runs.of_updAction s h _).trans (.of_placeAhead _ _ h)
      · exact .refl s

theorem Runs.reachAhead (s : State) (h : Handle) : Runs k s (s.reachAhead h) := by
  unfold State.reachAhead
  split
  · split
    · exact .reachFire s _ _
    · exact .refl s
  · exact .refl s

theorem Runs.replaceActions (s : State) (n : Half) : Runs k s (s.replaceActions n) := by
  unfold State.replaceActions
  split
  · exact .refl s
  · exact (Runs.foldl _ .replaceAction _ s).trans (.foldl _ .reachAhead _ _)

theorem Runs.matchItem (s : State) (i : Fin 8) (x : Position) (it : Item) : Runs k s (s.matchItem i x it) := by
  unfold State.matchItem
  dsimp only
  refine Runs.trans (Runs.trans (Runs.thenPost (Runs.thenItem (.refl s) _ _ ?_ ?_) _ _ _)
    (.replaceActions _ _)) (.walkPoints _ _ _ _)
  all_goals exact fun _ => rfl

theorem Runs.checkpointEdge (s : State) (i : Fin 8) (x : Position) : Runs k s (s.checkpointEdge i x) := by
  unfold State.checkpointEdge
  split
  · exact .matchItem s i x _
  · exact .post _ _ _ _

/-! ### The Stage Queue and the creation of items (R38, R71, R87) -/

theorem Runs.applyStage (s : State) : Runs k s s.applyStage := by
  unfold State.applyStage
  split
  · exact .refl s
  · rename_i e rest q
    refine Runs.trans
      (t := { s with recipes := { s.recipes with current := e.recipe, stage := rest } }) ?_ (.post _ _ _ _)
    exact
      { Runs.refl (k := k) s with
        ports := .refl s
        recipes := fun h =>
          ⟨by have := h.atMost; rw [q] at this; simp only [List.length_cons] at this; show rest.length ≤ 2; omega,
            fun x hx => h.staged x (q ▸ List.mem_cons_of_mem _ hx), h.staged e (q ▸ List.mem_cons_self), h.zero⟩
        config := fun _ => .refl _
        inner := id
        causes := id
        items := fun i => ⟨i.atMost, i.distinct, i.nonzero, i.next, i.refCounts⟩ }

theorem Runs.checkStage (j : Nat) (s : State) : Runs k s (State.checkStage j s) := by
  induction j generalizing s with
  | zero => exact .refl s
  | succ j ih =>
    unfold State.checkStage
    split
    · split
      · exact .refl s
      · exact (Runs.applyStage s).trans (ih _)
    · exact .refl s

theorem Runs.bindAction {s t : State} {r : BindRequest} {h : Handle} (e : s.bindAction r = some (h, t)) :
    Runs k s t := by
  unfold State.bindAction at e
  split at e
  · simp at e
  · simp only [Option.some.injEq, Prod.mk.injEq] at e
    obtain ⟨-, rfl⟩ := e
    refine Runs.trans (Runs.thenItem (.plain rfl) _ _ ?_ ?_) (.of_placeAhead _ _ _)
    all_goals exact fun _ => rfl

theorem Runs.displace (s : State) (hs : List Handle) : Runs k s (s.displace hs) := .of_ends (.endActions s _ hs)

theorem Runs.offerTemplate (n : Half) (x : Position) (slots : PerPort Slot) (acc : State × TemplateTally)
    (t : Template) : Runs k acc.1 (State.offerTemplate n x slots acc t).1 := by
  unfold State.offerTemplate
  dsimp only
  split
  · exact .refl _
  · split
    · exact .refl _
    · split
      · exact .refl _
      · split
        · exact .refl _
        · rename_i e
          exact (Runs.displace _ _).trans (.bindAction e)

theorem Runs.offerTemplates (s : State) (n : Half) (x : Position) : Runs k s (s.offerTemplates n x).1 := by
  have f : ∀ (ts : List Template) (slots : PerPort Slot) (acc : State × TemplateTally),
      Runs k acc.1 (ts.foldl (State.offerTemplate n x slots) acc).1 := by
    intro ts slots
    induction ts with
    | nil => exact fun acc => .refl _
    | cons t ts ih => exact fun acc => (Runs.offerTemplate n x slots acc t).trans (ih _)
  have g : ∀ t : State, Runs k s t → ∀ y : TemplateTally,
      Runs k s (if y.noSpace then (t.updItem n (fun it =>
        { it with missing := y.missing, flags := { it.flags with incomplete := y.missing ≠ 0 } })).raiseHold
          causeActionFull
        else t.updItem n (fun it =>
          { it with missing := y.missing, flags := { it.flags with incomplete := y.missing ≠ 0 } })) := by
    intro t h y
    have h1 := h.trans (.of_updItem t n (fun it =>
      { it with missing := y.missing, flags := { it.flags with incomplete := y.missing ≠ 0 } })
      (fun _ => rfl) (fun _ => rfl))
    split
    · exact h1.thenRaise _ (by decide)
    · exact h1
  exact g _ (f _ _ (s, _)) _

/-! #### Numbering (R34) -/

theorem nextNumber_ne_zero (n : Half) : nextNumber n ≠ 0 := by
  unfold nextNumber
  split
  · decide
  · bv_omega

theorem nextNumber_toNat {n : Half} (h : n ≠ 0) : (nextNumber n).toNat = (n.toNat - 1 + 1) % 65535 + 1 := by
  have h0 : n.toNat ≠ 0 := fun e => h (BitVec.eq_of_toNat_eq (by simpa using e))
  have hl := n.isLt
  unfold nextNumber
  split
  · rename_i e; rw [e]; rfl
  · rename_i e
    have e' : n.toNat ≠ 65535 := fun x => e (BitVec.eq_of_toNat_eq (by simpa using x))
    rw [BitVec.toNat_add, show (1 : Half).toNat = 1 from rfl]
    omega

theorem nextNumber_iterate {n : Half} (h : n ≠ 0) (i : Nat) :
    nextNumber^[i] n ≠ 0 ∧ (nextNumber^[i] n).toNat = (n.toNat - 1 + i) % 65535 + 1 := by
  have h0 : n.toNat ≠ 0 := fun e => h (BitVec.eq_of_toNat_eq (by simpa using e))
  have hl := n.isLt
  induction i with
  | zero => exact ⟨h, by simp only [Function.iterate_zero, id]; omega⟩
  | succ i ih =>
    rw [Function.iterate_succ_apply']
    exact ⟨nextNumber_ne_zero _, by rw [nextNumber_toNat ih.1, ih.2]; omega⟩

/-- The search either finds a number that no live item holds, or passes held numbers only. -/
theorem firstFreeNumber_cases (j : Nat) (n : Half) (live : List Item) :
    (∃ i, firstFreeNumber j n live = nextNumber^[i] n) ∧
      ((∀ it ∈ live, it.number ≠ firstFreeNumber j n live) ∨
        firstFreeNumber j n live = nextNumber^[j] n ∧ ∀ i < j, ∃ it ∈ live, it.number = nextNumber^[i] n) := by
  induction j generalizing n with
  | zero => exact ⟨⟨0, rfl⟩, .inr ⟨rfl, fun i hi => absurd hi (Nat.not_lt_zero i)⟩⟩
  | succ j ih =>
    unfold firstFreeNumber
    split
    · rename_i held
      obtain ⟨⟨i, e⟩, c⟩ := ih (nextNumber n)
      refine ⟨⟨i + 1, e⟩, c.imp id (fun c => ⟨c.1, fun i hi => ?_⟩)⟩
      cases i with
      | zero => simpa using held
      | succ i => exact c.2 i (by omega)
    · rename_i free
      refine ⟨⟨0, rfl⟩, .inl (fun it hi e => free ?_)⟩
      simp only [List.any_eq_true, decide_eq_true_eq]
      exact ⟨it, hi, e⟩

/-- The number that the search gives is not 0, and no live item holds it (R34). -/
theorem firstFreeNumber_spec {n : Half} {live : List Item} (hn : n ≠ 0) (hl : live.length < 65535) :
    firstFreeNumber live.length n live ≠ 0 ∧ ∀ it ∈ live, it.number ≠ firstFreeNumber live.length n live := by
  obtain ⟨⟨i, e⟩, c⟩ := firstFreeNumber_cases live.length n live
  refine ⟨by rw [e]; exact (nextNumber_iterate hn i).1, c.elim id (fun c it hi held => ?_)⟩
  have sub : (List.range (live.length + 1)).map (fun i => nextNumber^[i] n) ⊆ live.map Item.number := by
    intro x hx
    obtain ⟨i, hr, rfl⟩ := List.mem_map.1 hx
    have hr := List.mem_range.1 hr
    by_cases l : i = live.length
    · exact List.mem_map.2 ⟨it, hi, by rw [held, c.1, l]⟩
    · obtain ⟨y, hy, e⟩ := c.2 i (by omega)
      exact List.mem_map.2 ⟨y, hy, e⟩
  have nodup : ((List.range (live.length + 1)).map (fun i => nextNumber^[i] n)).Nodup := by
    refine List.Nodup.map_on (fun a ha b hb e => ?_) List.nodup_range
    have ha := List.mem_range.1 ha
    have hb := List.mem_range.1 hb
    have ea := (nextNumber_iterate hn a).2
    have eb := (nextNumber_iterate hn b).2
    simp only [e] at ea
    have hn' := n.isLt
    omega
  have := (nodup.subperm sub).length_le
  simp at this

theorem ItemsSound.addItem {s : State} (h : s.ItemsSound) (x : Position) (room : s.items.live.length < 64) :
    (s.addItem x).2.ItemsSound := by
  have num := firstFreeNumber_spec (live := s.items.live) h.next (by omega)
  refine ⟨?_, ?_, ?_, nextNumber_ne_zero _, ?_⟩
  · simp only [State.addItem, updRecipe_items, List.length_append, List.length_singleton]; omega
  · simp only [State.addItem, updRecipe_items, List.map_append, List.map_singleton]
    rw [List.nodup_append]
    refine ⟨h.distinct, by simp, ?_⟩
    intro a ha b hb e
    obtain ⟨it, hi, rfl⟩ := List.mem_map.1 ha
    simp only [List.mem_singleton] at hb
    subst hb
    exact num.2 it hi e
  · intro it hi
    simp only [State.addItem, updRecipe_items, List.mem_append, List.mem_singleton] at hi
    rcases hi with hi | rfl
    · exact h.nonzero it hi
    · exact num.1
  · intro i
    simp only [State.addItem, recipe_updRecipe, updRecipe_items, List.countP_append]
    have r := h.refCounts i
    split
    · subst_vars
      show (s.recipe s.recipes.current).refCount + 1 = _
      rw [r]
      simp [newItem]
    · rename_i ne
      show (s.recipe i).refCount = _
      rw [r]
      have : ¬s.recipes.current = i := fun e => ne e.symm
      simp [newItem, this]

theorem Runs.addItem (s : State) (x : Position) (room : s.items.live.length < 64) : Runs k s (s.addItem x).2 :=
  { Runs.refl (k := k) s with
    ports := .refl s
    body := fun i => by
      simp only [State.addItem, recipe_updRecipe]
      split
      · subst_vars; exact ⟨rfl, rfl⟩
      · exact ⟨rfl, rfl⟩
    recipes := fun h => by
      have v : ∀ j, ((s.addItem x).2.recipe j).valid = (s.recipe j).valid := fun j => by
        simp only [State.addItem, recipe_updRecipe]
        split
        · subst_vars; rfl
        · rfl
      exact ⟨h.atMost, fun e he => (v _).trans (h.staged e he), (v _).trans h.current, (v _).trans h.zero⟩
    config := fun _ => .refl _
    inner := id
    causes := id
    items := fun i => i.addItem x room }

theorem applyStage_items (s : State) : s.applyStage.items = s.items := by
  unfold State.applyStage
  split
  · rfl
  · rw [post_items]

theorem Runs.endActions (s : State) (o : ActionOutcome) (hs : List Handle) :
    Runs k s (hs.foldl (fun t h => t.endAction h o) s) := .of_ends (.endActions s o hs)

/-- A creation into a table with room (R38). -/
theorem Runs.createItem (s : State) (x : Position) (room : s.items.live.length < 64) :
    Runs k s (s.createItem x) := by
  unfold State.createItem
  dsimp only
  split
  · have room' : s.applyStage.items.live.length < 64 := by rw [applyStage_items]; exact room
    exact ((((((Runs.applyStage s).trans (.addItem _ x room')).trans (.offerTemplates _ _ x)).thenPost _ _ _).trans
      (.endActions _ _ _)).trans (.walkPoints _ _ _ _)).trans (.checkStage _ _)
  · exact ((((Runs.addItem s x room).trans (.offerTemplates _ _ x)).thenPost _ _ _).trans
      (.endActions _ _ _)).trans (.walkPoints _ _ _ _)

/-- An update of the Item Table's counts and pending trailing edge. -/
theorem Runs.of_tally {s t : State}
    (e : t = { s with items := { s.items with
      trailing := t.items.trailing, entryLost := t.items.entryLost, reEntry := t.items.reEntry } }) : Runs k s t := by
  rw [e]
  exact
    { Runs.refl (k := k) s with
      ports := .refl s
      recipes := fun h => ⟨h.atMost, h.staged, h.current, h.zero⟩
      config := fun _ => .refl _
      inner := id
      causes := id
      items := fun i => ⟨i.atMost, i.distinct, i.nonzero, i.next, i.refCounts⟩ }

theorem Runs.acceptEntry (s : State) (x : Position) : Runs k s (s.acceptEntry x) := by
  unfold State.acceptEntry
  split
  · exact .createItem s x ‹_›
  · exact (Runs.thenPost (.of_tally rfl) _ _ _).thenRaise _ (by decide)

theorem Runs.entryLeading (s : State) (x : Position) : Runs k s (s.entryLeading x) := by
  unfold State.entryLeading
  split
  · exact .acceptEntry s x
  · split
    · exact .acceptEntry s x
    · exact Runs.thenPost (.of_tally rfl) _ _ _

theorem Runs.applyLength (s : State) (it : Item) (x : Position) : Runs k s (s.applyLength it x) := by
  have h1 : ∀ f : BitVec 32, Runs k s (s.updItem it.number (fun y => { y with length := some f, state := .tracked })) :=
    fun _ => .of_updItem s _ _ (fun _ => rfl) (fun _ => rfl)
  unfold State.applyLength
  dsimp only
  split
  · exact h1 _
  · have h2 := ((h1 (lengthCheck (s.bodyOf it) it.entry x).1).trans (.of_updItem _ it.number
      (fun y => { y with flags := { y.flags with lengthFault := true } }) (fun _ => rfl) (fun _ => rfl))).thenPost
        it.number x (.lengthFault (lengthCheck (s.bodyOf it) it.entry x).1 ‹_› (s.bodyOf it).policy)
    split
    · exact h2.trans (.forceClose _ _)
    · exact h2

theorem Runs.entryTrailing (s : State) (x : Position) : Runs k s (s.entryTrailing x) := by
  have h1 : Runs k s { s with items := { s.items with trailing := .nothing } } := .of_tally rfl
  unfold State.entryTrailing
  dsimp only
  split
  · split
    · split
      · exact h1.trans (.applyLength _ _ x)
      · exact h1
    · exact h1
  · exact h1

/-- A taken edge handed on by its input's role (R20). -/
theorem Runs.routeEdge (s : State) (i : Fin 8) (l : Bool) (x : Position) : Runs k s (s.routeEdge i l x) := by
  unfold State.routeEdge
  split
  · split
    · exact .entryLeading s x
    · exact .entryTrailing s x
  · split
    · exact .checkpointEdge s i x
    · exact .refl s
  · split
    · exact .post _ _ _ _
    · exact .refl s
  · exact .refl s

/-! ### Counts (R8 to R10) -/

theorem Runs.startMoving (s : State) (d : Direction) : Runs k s (s.startMoving d) :=
  Runs.thenPost (.plain rfl) _ _ _

theorem Runs.beginExcursion (s : State) : Runs k s s.beginExcursion :=
  ((Runs.thenPost (.plain rfl) _ _ _).thenRaise _ (by decide)).trans (.endActions _ _ _)

theorem channel_markGaps (s t : State) (c : Fin 16) :
    (s.markGaps t).channel c =
      if (s.channel c).out = .on ∧ (t.channel c).out = .gap ∧ (t.channel c).waitSet = [] then
        { t.channel c with gapFresh := true }
      else t.channel c := by
  unfold State.markGaps
  rw [State.channel]
  simp only [Vector.get_ofFn, Bool.and_eq_true, decide_eq_true_eq, List.isEmpty_iff, and_assoc]

/-- The gaps of a part of a count, marked (R138, R141): nothing but the marks changes. -/
theorem Runs.markGaps {s t : State} (m : Runs False s t) (r : State) : Runs False s (r.markGaps t) := by
  have e : r.markGaps t = { t with channels := (r.markGaps t).channels } := rfl
  have h := channel_markGaps r t
  generalize r.markGaps t = u at e h
  have hc : ∀ c, (u.channel c).SameConfig (t.channel c) ∧ ((t.channel c).Inner → (u.channel c).Inner) := by
    intro c
    rw [h c]
    split
    · rename_i w
      refine ⟨⟨rfl, rfl, rfl, rfl⟩, fun g => ?_⟩
      unfold Channel.Inner at g ⊢
      simp only [w.2.1] at g ⊢
      exact ⟨g.1, g.2.1, fun _ => w.2.2⟩
    · exact ⟨.refl _, id⟩
  generalize u.channels = cs at e
  subst e
  exact
    { rstn := m.rstn, lp := m.lp, hwp := m.hwp, line := m.line, inputs := m.inputs, leases := m.leases
      pending := m.pending, body := m.body, ports := m.ports, causes := m.causes
      recipes := fun h => let j := m.recipes h; ⟨j.atMost, j.staged, j.current, j.zero⟩
      config := fun c =>
        let a := m.config c
        let b := (hc c).1
        ⟨b.polarity.symm.trans a.polarity, b.minGap.symm.trans a.minGap, b.policy.symm.trans a.policy,
          b.span.symm.trans a.span⟩
      inner := fun i c => (hc c).2 (m.inner i c)
      fresh := fun f => f.elim
      items := fun i => let j := m.items i; ⟨j.atMost, j.distinct, j.nonzero, j.next, j.refCounts⟩ }

/-- The end of a COUNTS window, which marks the gap that it starts (R141). -/
theorem Runs.endWindow (s : State) (h : Handle) : Runs False s (s.endWindow h) :=
  (Runs.of_ends (Ends.endAction s h .done)).markGaps s

theorem Runs.doTask (s : State) (d : Direction) (t : CountTask) : Runs False s (s.doTask d t) := by
  cases t with
  | motion => exact .startMoving s d
  | excursion => exact .beginExcursion s
  | point n w =>
    cases w with
    | missEnd k => exact (Runs.actOnPoint s n (.missEnd k)).markGaps s
    | jam => exact .actOnPoint s n .jam
    | decision p => exact .actOnPoint s n (.decision p)
    | exit => exact .actOnPoint s n .exit
  | stage => exact (Runs.applyStage s).trans (.checkStage _ _)
  | fire h =>
    show Runs False s ((s.action? h).elim s (s.reachFire h))
    cases s.action? h with
    | none => exact .refl s
    | some a => exact .reachFire s h a
  | windowEnd h => exact .endWindow s h

theorem Runs.runTasks (j : Nat) (d : Direction) (s : State) : Runs False s (State.runTasks j d s) := by
  induction j generalizing s with
  | zero => exact .refl s
  | succ j ih =>
    unfold State.runTasks
    dsimp only
    split
    · exact .refl s
    · exact ((Runs.of_choose s _).trans (.doTask _ d _)).trans (ih _)

end State
end Sys2Proof.Machine
end

