-- ==== Sys2Proof/Laws/Relations.lean ====
section
/-! SUPPORT. What the shared operations of the Action Store, the Item Table, the output stages and the Hold Unit do, one lemma
for each, in the words of the claims (`Sys2Proof.Safety`): the later proofs cite these and do not unfold the operations. -/
namespace Sys2Proof.Machine

/-! ### Handles and records -/

/-- A handle is put together from the two parts that it is read as (R76). -/
theorem makeHandle_iff (g : Byte) (i : Fin 256) (h : Handle) :
    h = g ++ BitVec.ofFin (w := 8) i ↔ g = handleGeneration h ∧ i = handleIndex h := by
  have low : ∀ (g : Byte) (i : Fin 256), (g ++ BitVec.ofFin (w := 8) i).extractLsb' 0 8 = BitVec.ofFin i := by
    intro g i
    apply BitVec.eq_of_toNat_eq
    have := i.isLt
    simp only [BitVec.extractLsb'_toNat, BitVec.toNat_append, BitVec.toNat_ofFin, Nat.shiftRight_zero, Nat.shiftLeft_eq]
    rw [← Nat.shiftLeft_eq, ← Nat.shiftLeft_add_eq_or_of_lt (by omega), Nat.shiftLeft_eq]
    omega
  have high : ∀ (g : Byte) (i : Fin 256), (g ++ BitVec.ofFin (w := 8) i).extractLsb' 8 8 = g := by
    intro g i
    apply BitVec.eq_of_toNat_eq
    have := i.isLt
    have := g.isLt
    simp only [BitVec.extractLsb'_toNat, BitVec.toNat_append, BitVec.toNat_ofFin]
    rw [← Nat.shiftLeft_add_eq_or_of_lt (by omega), Nat.shiftLeft_eq, Nat.shiftRight_eq_div_pow]
    omega
  unfold handleGeneration handleIndex
  constructor
  · rintro rfl
    rw [low, high]
    exact ⟨rfl, rfl⟩
  · rintro ⟨rfl, rfl⟩
    apply BitVec.eq_of_toNat_eq
    have := h.isLt
    simp only [BitVec.extractLsb'_toNat, BitVec.toNat_append, BitVec.toNat_ofFin, BitVec.toFin_extractLsb', Nat.shiftRight_zero]
    rw [← Nat.shiftLeft_add_eq_or_of_lt (by show _ % _ < _; exact Nat.mod_lt _ (by decide)), Nat.shiftLeft_eq, Nat.shiftRight_eq_div_pow]
    show h.toNat = h.toNat / 2 ^ 8 % 2 ^ 8 * 2 ^ 8 + h.toNat % 2 ^ 8
    omega

namespace State

/-- R77: the handle of a bound action. -/
theorem names_iff {s : State} {h : Handle} {a : Action} : s.Names h a ↔ s.action? h = some a := by
  unfold State.Names State.action?
  constructor
  · rintro ⟨i, e, b⟩
    obtain ⟨g, rfl⟩ := (makeHandle_iff _ _ _).1 e
    rw [if_pos g, b]
  · intro e
    dsimp only at e
    split at e
    · exact ⟨handleIndex h, (makeHandle_iff _ _ _).2 ⟨‹_›, rfl⟩, e⟩
    · cases e

theorem not_names {s : State} {h : Handle} : (∀ a, ¬s.Names h a) ↔ s.action? h = none := by
  simp only [names_iff]
  cases s.action? h <;> simp

/-- The record of a bound action changed. -/
theorem updAction_recorded {s : State} {h : Handle} {a : Action} (e : s.action? h = some a) (f : Action → Action) :
    s.Recorded (s.updAction h f) h (f a) := by
  intro i
  unfold State.action? at e
  dsimp only at e
  unfold State.updAction
  split at e
  · rename_i g
    dsimp only
    rw [if_pos g, entry_setEntry, e]
    split
    · subst_vars; rfl
    · rfl
  · cases e

theorem updAction_eq (s : State) (h : Handle) (f : Action → Action) :
    s.updAction h f = { s with actions := { s.actions with pool := (s.updAction h f).actions.pool } } := by
  unfold State.updAction
  dsimp only
  split <;> rfl

/-- A read of an action sees only the pool entry of its handle. -/
theorem action_congr {s t : State} {h : Handle} (e : t.entry (handleIndex h) = s.entry (handleIndex h)) :
    t.action? h = s.action? h := by
  unfold State.action?
  rw [e]

/-- The record of one handle changed leaves what every other handle names. -/
theorem Recorded.action_other {s t : State} {h : Handle} {a b : Action} (r : s.Recorded t h b) (e : s.action? h = some a)
    {x : Handle} (n : x ≠ h) : t.action? x = s.action? x := by
  by_cases i : handleIndex x = handleIndex h
  · unfold State.action? at e ⊢
    dsimp only at e ⊢
    have g : handleGeneration x ≠ handleGeneration h := fun g =>
      n (((makeHandle_iff _ _ x).2 ⟨g.symm, i.symm⟩).trans ((makeHandle_iff _ _ h).2 ⟨rfl, rfl⟩).symm)
    split at e
    · rename_i k
      rw [r, if_pos i, i, k, if_neg g.symm, if_neg g.symm]
    · cases e
  · exact action_congr (by rw [r, if_neg i])

theorem Recorded.action_self {s t : State} {h : Handle} {a b : Action} (r : s.Recorded t h b) (e : s.action? h = some a) :
    t.action? h = some b := by
  unfold State.action? at e ⊢
  dsimp only at e ⊢
  split at e
  · rename_i k
    rw [r, if_pos rfl, if_pos k]
  · cases e

/-! ### Endings -/

end State

/-- R139. -/
theorem Channel.leave_left (ch : Channel) (h : Handle) : ch.Left (ch.leave h) h := by
  unfold Channel.leave
  constructor
  · intro m ne
    rw [if_pos (by simpa using m)]
    dsimp only
    rw [if_neg (by simpa [List.isEmpty_iff] using ne)]
  · intro m e z
    rw [if_pos (by simpa using m)]
    dsimp only
    rw [e, if_pos List.isEmpty_nil, if_pos z]
  · intro m e z
    rw [if_pos (by simpa using m)]
    dsimp only
    rw [e, if_pos List.isEmpty_nil, if_neg z]
  · intro m
    rw [if_neg (by simpa using m)]

namespace State

theorem firing_iff (a : Action) : a.firing = true ↔ a.state = .on ∨ a.state = .waitGap := by
  simp [Action.firing, or_comm]

/-- R93 steps 1 to 4, R94, R76. -/
theorem endCore_ended {s : State} {h : Handle} {a : Action} (o : ActionOutcome) (e : s.action? h = some a) :
    s.Ended (s.endCore h o) h a o := by
  unfold State.endCore
  rw [e]
  dsimp only
  generalize hs1 : (if a.firing then s.leaveSet a.channel h else s) = s1
  have k1 : s1 = { s with channels := s1.channels } := by subst hs1; split <;> rfl
  have kc : ∀ c, s1.channel c =
      if c = a.channel ∧ (a.state = .on ∨ a.state = .waitGap) then (s.channel c).leave h else s.channel c := by
    intro c
    subst hs1
    by_cases f : a.firing = true
    · rw [if_pos f]
      simp only [State.leaveSet, channel_updChannel, (firing_iff a).1 f, and_true]
      split
      · subst_vars; rfl
      · rfl
    · rw [if_neg f]
      rw [firing_iff] at f
      simp [f]
  constructor
  · intro c
    have : ((State.freeEntry ((s1.unlist a).offerReport a.report a.item s.pos.lp (actionEndBody a o s.pos.lp))
        (handleIndex h)).channel c) = s1.channel c := by
      cases a.report <;> rfl
    rw [this, kc]
    split
    · exact Channel.leave_left _ _
    · rfl
  · intro c
    have : ((State.freeEntry ((s1.unlist a).offerReport a.report a.item s.pos.lp (actionEndBody a o s.pos.lp))
        (handleIndex h)).schedule c) = (s1.unlist a).schedule c := by
      cases a.report <;> rfl
    rw [this]
    simp only [State.unlist, updItem_schedule, schedule_setSchedule]
    rw [k1]
    split
    · subst_vars; rfl
    · rfl
  · have : ((State.freeEntry ((s1.unlist a).offerReport a.report a.item s.pos.lp (actionEndBody a o s.pos.lp))
        (handleIndex h)).items) = (s1.unlist a).items := by
      cases a.report <;> rfl
    rw [this, k1]
    rfl
  · intro q
    have : ((State.freeEntry ((s1.unlist a).offerReport a.report a.item s.pos.lp (actionEndBody a o s.pos.lp))
        (handleIndex h)).port q) =
        ((s1.unlist a).offerReport a.report a.item s.pos.lp (actionEndBody a o s.pos.lp)).port q := rfl
    rw [this]
    have hp : ∀ q, (s1.unlist a).port q = s.port q := by intro q; rw [k1]; rfl
    have hb : actionEndBody a o s.pos.lp = (.actionEnd a.handle a.tag o a.late a.delayed
        (a.state = .on ∨ a.state = .waitGap) a.start.isSome
        (a.start.elim 0 (fun x => BitVec.ofNat 24 (min (s.pos.lp - x).toNat 16777215)))) := by
      simp only [actionEndBody, actionRun, forwardDistance]
      congr 1
      · simp [Action.firing, Bool.or_comm]
      · cases a.start <;> rfl
    cases a.report with
    | none => simp [State.offerReport, hp]
    | some p =>
      simp only [State.offerReport, State.offerTo, port_updPort, hp]
      by_cases x : p = q
      · subst x
        simp only [if_true]
        unfold PortState.Offer PortState.offer PortState.enqueue
        rw [hb]
      · rw [if_neg (fun y => x (Option.some.inj y)), if_neg (fun y => x y.symm)]
  · intro i
    rw [entry_freeEntry]
    have : ∀ i, ((s1.unlist a).offerReport a.report a.item s.pos.lp (actionEndBody a o s.pos.lp)).entry i = s.entry i := by
      intro i
      rw [k1]
      cases a.report <;> rfl
    rw [this, this]
    split
    · subst_vars; rfl
    · rfl
  · rw [k1]
    cases a.report <;> rfl
  · rw [k1]
    cases a.report <;> exact ⟨rfl, rfl⟩

theorem endCore_stale {s : State} {h : Handle} (o : ActionOutcome) (e : s.action? h = none) : s.endCore h o = s := by
  unfold State.endCore
  rw [e]

/-- R49 to R51. -/
theorem cutActions_cut (hs : List Handle) (s : State) : State.CutInTurn hs s (s.cutActions hs) := by
  induction hs generalizing s with
  | nil => exact .done s
  | cons h rest ih =>
    show State.CutInTurn _ s ((s.endCore h (if s.isFiring h then .aborted else .lost)).cutActions rest)
    cases e : s.action? h with
    | none =>
      rw [endCore_stale _ e]
      exact .left s _ h rest (fun a n => by rw [names_iff, e] at n; cases n) (ih s)
    | some a =>
      refine .one s _ _ h rest a _ (names_iff.2 e) rfl ?_ (ih _)
      have : s.isFiring h = a.firing := by simp [State.isFiring, e]
      rw [this]
      by_cases f : a.firing = true
      · rw [if_pos f, if_pos ((firing_iff a).1 f)]
        exact endCore_ended _ e
      · rw [if_neg f, if_neg (fun x => f ((firing_iff a).2 x))]
        exact endCore_ended _ e

/-- R44 step 1. -/
theorem loseArmed_lost (hs : List Handle) (s : State) : State.LostInTurn hs s (s.loseArmed hs) := by
  induction hs generalizing s with
  | nil => exact .done s
  | cons h rest ih =>
    show State.LostInTurn _ s ((if s.isFiring h then s else s.endCore h .lost).loseArmed rest)
    cases e : s.action? h with
    | none =>
      have : s.isFiring h = false := by simp [State.isFiring, e]
      rw [this, if_neg Bool.false_ne_true, endCore_stale _ e]
      exact .left s _ h rest (fun a n => by rw [names_iff, e] at n; cases n) (ih s)
    | some a =>
      have : s.isFiring h = a.firing := by simp [State.isFiring, e]
      rw [this]
      by_cases f : a.firing = true
      · rw [if_pos f]
        refine .left s _ h rest (fun b n => ?_) (ih s)
        rw [names_iff, e] at n
        cases n
        exact if_pos ((firing_iff a).1 f)
      · rw [if_neg f]
        exact .one s _ _ h rest a .lost (names_iff.2 e) (if_neg (fun x => f ((firing_iff a).2 x))) (endCore_ended _ e)
          (ih _)

/-! ### Removals -/

/-- R46 steps 1 to 4. -/
theorem removeRecord_removed {s : State} {n : Half} {it : Item} (e : s.item? n = some it) (reason : ExitReason) :
    s.Removed (s.removeRecord n reason) it reason := by
  have hn := number_of_item e
  unfold State.removeRecord
  rw [e]
  dsimp only
  rw [← hn]
  exact ⟨rfl, post_posted _ _ _ _ rfl⟩

/-- ITEM_EXIT and the removal read only the number, the recipe, the flags and the slots of the record (R46). -/
theorem Removed.congr {s t : State} {x y : Item} {reason : ExitReason} (h : s.Removed t x reason) (k : y.Keeps x) :
    s.Removed t y reason := by
  obtain ⟨n, _, _, _, _, r, sl, _, f, _, _⟩ := k
  cases x
  cases y
  simp only at n r sl f
  subst n r sl f
  exact h

theorem item_updItem (s : State) (n m : Half) (f : Item → Item) (hf : ∀ x, (f x).number = x.number) :
    (s.updItem n f).item? m = (s.item? m).map (fun it => if it.number = n then f it else it) := by
  show ((s.items.live.map _).find? _) = _
  rw [List.find?_map]
  unfold State.item?
  congr 2
  funext x
  simp only [Function.comp]
  split
  · rw [hf]
  · rfl

theorem endCore_items {s : State} {h : Handle} {a : Action} (o : ActionOutcome) (e : s.action? h = some a) :
    (s.endCore h o).items = (s.updItem a.item (fun it =>
      { it with actions := it.actions.filter (fun x => x ≠ a.handle) })).items :=
  (endCore_ended o e).items

theorem item_congr {s t : State} (e : t.items = s.items) (n : Half) : t.item? n = s.item? n := by
  unfold State.item?
  rw [e]

/-- An ending keeps the item that a number names, but for its action list (R93 step 2). -/
theorem endCore_item {s : State} {n : Half} {it : Item} (e : s.item? n = some it) (h : Handle) (o : ActionOutcome) :
    ∃ x, (s.endCore h o).item? n = some x ∧ it.Keeps x := by
  cases b : s.action? h with
  | none => rw [endCore_stale _ b]; exact ⟨it, e, .refl _⟩
  | some a =>
    rw [item_congr (endCore_items o b), item_updItem (hf := by intro _; rfl), e]
    refine ⟨_, rfl, ?_⟩
    dsimp only
    split
    · exact { Item.Keeps.refl it with actions := List.filter_sublist }
    · exact .refl _

theorem loseArmed_item {n : Half} (hs : List Handle) {s : State} {it : Item} (e : s.item? n = some it) :
    ∃ x, (s.loseArmed hs).item? n = some x ∧ it.Keeps x := by
  induction hs generalizing s it with
  | nil => exact ⟨it, e, .refl _⟩
  | cons h rest ih =>
    show ∃ x, ((if s.isFiring h then s else s.endCore h .lost).loseArmed rest).item? n = some x ∧ _
    split
    · exact ih e
    · obtain ⟨x, ex, k⟩ := endCore_item e h .lost
      obtain ⟨y, ey, l⟩ := ih ex
      exact ⟨y, ey, k.trans l⟩

theorem cutActions_item {n : Half} (hs : List Handle) {s : State} {it : Item} (e : s.item? n = some it) :
    ∃ x, (s.cutActions hs).item? n = some x ∧ it.Keeps x := by
  induction hs generalizing s it with
  | nil => exact ⟨it, e, .refl _⟩
  | cons h rest ih =>
    show ∃ x, ((s.endCore h _).cutActions rest).item? n = some x ∧ _
    obtain ⟨x, ex, k⟩ := endCore_item e h (if s.isFiring h then .aborted else .lost)
    obtain ⟨y, ey, l⟩ := ih ex
    exact ⟨y, ey, k.trans l⟩

theorem isAhead_iff (s : State) (x : Position) : isAhead s.pos.lp x = true ↔ s.Ahead x := by
  unfold isAhead State.Ahead forwardDistance
  rw [Bool.and_eq_true, decide_eq_true_eq, decide_eq_true_eq]

theorem plusCounts_offset (a : Position) (d : Offset) : plusCounts a d.toNat = a + d.setWidth 32 := by
  unfold plusCounts
  congr 1
  apply BitVec.eq_of_toNat_eq
  simp

theorem headSettled_iff {s : State} {it : Item} (e : s.items.live.head? = some it) :
    s.headSettled ↔ ¬((it.state ≠ .leaving && !isAhead s.pos.lp (s.exitPointOf it)) = true) := by
  have p : s.exitPointOf it = it.base + s.line.exitDistance.setWidth 32 := plusCounts_offset _ _
  unfold State.headSettled
  rw [e]
  constructor
  · intro h
    rcases h it rfl with l | l
    · simp [l]
    · rw [← p] at l
      simp [(isAhead_iff _ _).2 l]
  · intro h x hx
    cases hx
    by_cases l : it.state = .leaving
    · exact .inl l
    · right
      rw [← p]
      apply (isAhead_iff _ _).1
      simpa [l] using h

/-- The head reaches its exit (R44), up to the head check. -/
theorem reachExit_runs {s t : State} (h : (s.reachExit.1 = true → State.HeadRuns false s.reachExit.2 t) ∧
    (s.reachExit.1 = false → t = s.reachExit.2)) : State.HeadRuns true s t := by
  cases e : s.items.live with
  | nil =>
    have r : s.reachExit = (false, s) := by unfold State.reachExit; rw [e]
    rw [r] at h
    rw [h.2 rfl]
    exact .empty s e
  | cons it rest =>
    have hd : s.items.live.head? = some it := by rw [e]; rfl
    have hi : s.item? it.number = some it := by
      unfold State.item?
      rw [e, List.find?_cons_of_pos (by simp)]
    obtain ⟨x, ex, k⟩ := loseArmed_item it.actions hi
    by_cases em : x.actions = []
    · have r : s.reachExit = (true, (s.loseArmed it.actions).removeRecord it.number .exit) := by
        unfold State.reachExit
        rw [e]
        dsimp only
        rw [ex]
        simp [em]
      rw [r] at h
      exact .exits s _ _ t it x hd (loseArmed_lost _ _) ex em ((removeRecord_removed ex _).congr k) (h.1 rfl)
    · have r : s.reachExit = (false, (s.loseArmed it.actions).updItem it.number (fun y => { y with state := .leaving })) := by
        unfold State.reachExit
        rw [e]
        dsimp only
        rw [ex]
        simp [em]
      rw [r] at h
      rw [h.2 rfl]
      exact .leaves s _ it x hd (loseArmed_lost _ _) ex em

theorem removeRecord_live (s : State) (n : Half) (reason : ExitReason) :
    (s.removeRecord n reason).items.live = if (s.item? n).isSome then s.items.live.filter (fun x => x.number ≠ n) else s.items.live := by
  unfold State.removeRecord
  split
  · rename_i e; simp [e]
  · rename_i it e; simp [e]

theorem reachExit_shorter {s : State} (h : s.reachExit.1 = true) :
    s.reachExit.2.items.live.length < s.items.live.length := by
  cases e : s.items.live with
  | nil =>
    have r : s.reachExit = (false, s) := by unfold State.reachExit; rw [e]
    rw [r] at h
    cases h
  | cons it rest =>
    have hi : s.item? it.number = some it := by
      unfold State.item?
      rw [e, List.find?_cons_of_pos (by simp)]
    obtain ⟨x, ex, k⟩ := loseArmed_item it.actions hi
    unfold State.reachExit at h ⊢
    rw [e] at h ⊢
    dsimp only at h ⊢
    split at h
    · rename_i em
      rw [if_pos em]
      dsimp only
      rw [removeRecord_live, ex]
      have m : it.number ∈ (s.loseArmed it.actions).items.live.map Item.number :=
        List.mem_map.2 ⟨x, mem_of_item ex, k.number⟩
      have le := (Ends.loseArmed s it.actions).numbers.length_le
      simp only [List.length_map] at le
      obtain ⟨z, hz, nz⟩ := List.mem_map.1 m
      have : ((s.loseArmed it.actions).items.live.filter (fun x => x.number ≠ it.number)).length <
          (s.loseArmed it.actions).items.live.length :=
        List.length_filter_lt_length_iff_exists.2 ⟨z, hz, by simp [nz]⟩
      rw [e] at le
      simp only [Option.isSome_some, if_true]
      omega
    · cases h

/-- The head check (R47). -/
theorem headCheck_runs (k : Nat) (s : State) (h : s.items.live.length ≤ k) : State.HeadRuns false s (State.headCheck k s) := by
  induction k generalizing s with
  | zero =>
    have e : s.items.live = [] := List.length_eq_zero_iff.1 (Nat.le_zero.1 h)
    exact .settled s (fun it hx => by rw [e] at hx; cases hx)
  | succ k ih =>
    unfold State.headCheck
    cases e : s.items.live with
    | nil => exact .settled s (fun it hx => by rw [e] at hx; cases hx)
    | cons it rest =>
      have hd : s.items.live.head? = some it := by rw [e]; rfl
      dsimp only
      split
      · rename_i c
        refine .due s _ (fun x => (headSettled_iff hd).1 x c) (reachExit_runs ⟨fun x => ?_, fun x => ?_⟩)
        · rw [if_pos x]
          have := reachExit_shorter x
          exact ih _ (by omega)
        · rw [if_neg (by rw [x]; exact Bool.false_ne_true)]
      · rename_i c
        exact .settled s ((headSettled_iff hd).2 c)

theorem checkHead_runs (s : State) : State.HeadRuns false s s.checkHead := headCheck_runs _ s (Nat.le_refl _)

/-- The exit point of the head is reached (R44, R47). -/
theorem exitHead_runs (s : State) : State.HeadRuns true s s.exitHead := by
  refine reachExit_runs ⟨fun x => ?_, fun x => ?_⟩
  · unfold State.exitHead
    rw [if_pos x]
    exact checkHead_runs _
  · unfold State.exitHead
    rw [if_neg (by rw [x]; exact Bool.false_ne_true)]

/-- R46. -/
theorem removeItem_removed {s : State} {n : Half} {x it : Item} (e : s.item? n = some x) (k : it.Keeps x) (reason : ExitReason) :
    s.ItemRemoved (s.removeItem n reason) it reason := by
  have hn : it.number = n := k.number.symm.trans (number_of_item e)
  have hh : s.items.live.head?.any (fun y => y.number = it.number) = s.isHead n := by
    unfold State.isHead
    rw [hn]
    cases s.items.live <;> simp
  refine ⟨_, (removeRecord_removed e reason).congr k, ?_⟩
  rw [hh]
  unfold State.removeItem
  split
  · rename_i c
    exact checkHead_runs _
  · rename_i c
    rfl

/-- R93. -/
theorem endAction_whole {s : State} {h : Handle} {a : Action} (o : ActionOutcome) (e : s.action? h = some a) :
    s.EndedWhole (s.endAction h o) h a o := by
  have core := endCore_ended o e
  have hi : ∀ it, s.item? a.item = some it → (s.endCore h o).item? a.item =
      some { it with actions := it.actions.filter (fun x => x ≠ a.handle) } := by
    intro it b
    rw [item_congr (endCore_items o e), item_updItem (hf := by intro _; rfl), b]
    simp [number_of_item b]
  constructor
  · intro no
    have : s.endAction h o = s.endCore h o := by
      unfold State.endAction
      rw [e]
      dsimp only
      cases b : s.item? a.item with
      | none =>
        have : (s.endCore h o).item? a.item = none := by
          rw [item_congr (endCore_items o e), item_updItem (hf := by intro _; rfl), b]
          rfl
        rw [this]
      | some it =>
        rw [hi it b]
        dsimp only
        rw [if_neg]
        intro c
        simp only [Bool.and_eq_true, decide_eq_true_eq, List.isEmpty_iff, List.filter_eq_nil_iff, not_not] at c
        exact no it ⟨b, c.1, fun x hx => by simpa using c.2 x hx⟩
    rw [this]
    exact core
  · rintro it ⟨b, l, all⟩
    refine ⟨_, core, ?_⟩
    have : s.endAction h o = (s.endCore h o).removeItem it.number .exit := by
      unfold State.endAction
      rw [e]
      dsimp only
      rw [hi it b]
      dsimp only
      rw [if_pos]
      simp only [Bool.and_eq_true, decide_eq_true_eq, List.isEmpty_iff, List.filter_eq_nil_iff, not_not]
      exact ⟨l, fun x hx => by simpa using all x hx⟩
    rw [this]
    refine removeItem_removed (x := { it with actions := it.actions.filter (fun x => x ≠ a.handle) }) ?_ ?_ _
    · exact (congrArg _ (number_of_item b)).trans (hi it b)
    · exact { Item.Keeps.refl it with actions := List.filter_sublist }

theorem endAction_stale {s : State} {h : Handle} (o : ActionOutcome) (e : s.action? h = none) : s.endAction h o = s := by
  unfold State.endAction
  rw [e]

/-- Several endings one after another (R93). -/
theorem endActions_inTurn (o : ActionOutcome) (hs : List Handle) (s : State) :
    State.EndsInTurn o hs s (hs.foldl (fun t h => t.endAction h o) s) := by
  induction hs generalizing s with
  | nil => exact .done s
  | cons h rest ih =>
    rw [List.foldl_cons]
    cases e : s.action? h with
    | none => rw [endAction_stale _ e]; exact .stale s _ h rest (fun a n => by rw [names_iff, e] at n; cases n) (ih s)
    | some a => exact .one s _ _ h rest a (names_iff.2 e) (endAction_whole o e) (ih _)

/-- R49, R50. -/
theorem takeOut_takenOut {s : State} {n : Half} {it : Item} (e : s.item? n = some it) (reason : ExitReason) :
    s.TakenOut (s.takeOut n reason) it reason := by
  unfold State.takeOut
  rw [e]
  obtain ⟨x, ex, k⟩ := cutActions_item it.actions e
  exact ⟨_, cutActions_cut _ _, removeItem_removed ex k _⟩

/-! ### The hold cause set -/

/-- R149, R154. -/
theorem changeHold_changed (s : State) (after : Half) (o : HoldOrigin) (q : Option Port) :
    s.HoldChanged (s.changeHold after o q) after o q := by
  unfold State.changeHold State.HoldChanged
  split
  · rename_i e
    subst e
    exact ⟨rfl, by simp⟩
  · rename_i ne
    refine ⟨rfl, ?_⟩
    exact post_posted { s with hold := after } 0 s.pos.lp _ rfl

theorem HoldChanged.of_same (s : State) (o : HoldOrigin) (q : Option Port) : s.HoldChanged s s.hold o q :=
  ⟨rfl, by simp⟩

/-- R150. -/
theorem raiseHold_changed (s : State) (cause : Half) :
    s.HoldChanged (s.raiseHold cause) (if s.line.holdMask &&& cause = 0 then s.hold else s.hold ||| cause) .raised none := by
  unfold State.raiseHold
  split
  · exact .of_same s _ _
  · exact changeHold_changed _ _ _ _

/-! ### Output stages and schedules -/

theorem inPart1_eq (s : State) (h : Handle) : s.isFiring h = s.inPart1 h := by
  unfold State.isFiring State.inPart1
  cases s.action? h with
  | none => rfl
  | some a => simp [Action.firing, Bool.or_comm]

theorem inPart3_eq (s : State) (h : Handle) : s.isArmedAhead h = s.inPart3 h := rfl

/-- The record of an action that turns ON (R92). -/
def turnedOn (lp : Position) (a : Action) (delayed : Bool) : Action :=
  { a with
    state := .on, start := some lp, delayed := a.delayed || delayed
    timer := match a.width with
      | .time x => some x
      | _ => none }

/-- R92, R138: what turning ON changes. -/
theorem turnOn_eq (s : State) (c : Fin 16) (h : Handle) (d : Bool) :
    s.turnOn c h d = { s with
      channels := s.channels.set c.val { s.channel c with onSet := (s.channel c).onSet ++ [h], out := .on }
      actions := { s.actions with pool := (s.turnOn c h d).actions.pool } } := by
  unfold State.turnOn State.updAction
  dsimp only
  split <;> rfl

theorem turnOn_recorded {s : State} {h : Handle} {a : Action} (e : s.action? h = some a) (c : Fin 16) (d : Bool) :
    s.Recorded (s.turnOn c h d) h (turnedOn s.pos.lp a d) :=
  updAction_recorded e _

theorem Recorded.congr {s t u : State} {h : Handle} {b : Action} (r : s.Recorded t h b)
    (n : ∀ i, u.entry i = t.entry i) : s.Recorded u h b := fun i => (n i).trans (r i)

/-- Two changes of one record are the second. -/
theorem Recorded.trans {s t u : State} {h : Handle} {a b c : Action} (_ : s.action? h = some a) (r : s.Recorded t h b)
    (q : t.Recorded u h c) : s.Recorded u h c := by
  intro i
  rw [q i, r i]
  split <;> rfl

/-- R138, R141, R143: the hand-over of a FIRING action, whose record stands with sub-state WAIT_GAP. -/
theorem handOver_waits {s : State} {c : Fin 16} (h : Handle) (w : s.waitsForGap c) :
    s.handOver c h = (s.updAction h (fun a => { a with state := .waitGap })).updChannel c
      (fun ch => { ch with fireCount := ch.fireCount + 1, waitSet := ch.waitSet ++ [h] }) := by
  unfold State.handOver
  rw [w.1]
  dsimp only
  rw [if_neg (by rw [w.2]; exact Bool.false_ne_true)]
  rw [updAction_updChannel, updChannel_updChannel]

theorem handOver_turnsOn {s : State} {c : Fin 16} (h : Handle) (w : ¬s.waitsForGap c) :
    s.handOver c h = (s.updChannel c (fun ch => { ch with
      fireCount := ch.fireCount + 1
      gapTimer := if ch.out = .gap then none else ch.gapTimer
      gapFresh := if ch.out = .gap then false else ch.gapFresh })).turnOn c h false := by
  have same : ∀ f g : Channel → Channel, f (s.channel c) = g (s.channel c) → s.updChannel c f = s.updChannel c g := by
    intro f g e
    unfold State.updChannel
    rw [e]
  unfold State.handOver
  unfold State.waitsForGap at w
  dsimp only
  split
  · rename_i o
    refine congrArg (fun u : State => u.turnOn c h false) (same _ _ ?_)
    simp [o]
  · rename_i o
    refine congrArg (fun u : State => u.turnOn c h false) (same _ _ ?_)
    simp [o]
  · rename_i o
    split
    · rw [updChannel_updChannel]
      refine congrArg (fun u : State => u.turnOn c h false) (same _ _ ?_)
      simp [o]
    · rename_i f
      exact absurd ⟨o, by simpa using f⟩ w

/-- R89, R90, R92, R138, R141, R143. -/
theorem becomeFiring_handedOver {s : State} {h : Handle} {a : Action} (e : s.action? h = some a) (late : Bool) :
    s.HandedOver (s.becomeFiring h a late) h a late := by
  unfold State.becomeFiring
  dsimp only
  have r1 := updAction_recorded e (fun x =>
    { x with state := .waitGap, handOver := some (s.firePoint a), late := x.late || late })
  have q1 := updAction_eq s h (fun x =>
    { x with state := .waitGap, handOver := some (s.firePoint a), late := x.late || late })
  generalize (s.updAction h (fun x =>
    { x with state := .waitGap, handOver := some (s.firePoint a), late := x.late || late })) = s1 at r1 q1
  have e1 := r1.action_self e
  have sc : ∀ c, s1.schedule c = s.schedule c := by intro c; rw [q1]; rfl
  generalize hs2 : s1.moveToFiring a.channel h = s2
  have q2 : s2 = { s with actions := s2.actions } := by subst hs2; rw [q1]; rfl
  have r2 := r1.congr (fun i => (by subst hs2; rfl : s2.entry i = s1.entry i))
  have e2 := r2.action_self e
  have f2 : s2.actions.freeList = s.actions.freeList ∧ s2.actions.bindCount = s.actions.bindCount := by
    subst hs2
    rw [q1]
    exact ⟨rfl, rfl⟩
  have k2 : ∀ c, s2.schedule c = if c = a.channel then
      (s.schedule c).filter (fun x => x ≠ h && s.inPart1 x) ++ h :: (s.schedule c).filter (fun x => x ≠ h && !s.inPart1 x)
      else s.schedule c := by
    have side : ∀ x, x ≠ h → s1.isFiring x = s.inPart1 x := fun x n => by
      rw [inPart1_eq, State.inPart1, r1.action_other e n, State.inPart1]
    intro c
    subst hs2
    unfold State.moveToFiring
    dsimp only
    rw [schedule_setSchedule]
    split
    · subst_vars
      rw [sc, List.filter_filter, List.filter_filter]
      congr 1
      · refine List.filter_congr (fun x _ => ?_)
        by_cases n : x = h
        · simp [n]
        · rw [side x n, Bool.and_comm]
      · congr 1
        refine List.filter_congr (fun x _ => ?_)
        by_cases n : x = h
        · simp [n]
        · rw [side x n, Bool.and_comm]
    · exact sc c
  have c2 : ∀ c, s2.channel c = s.channel c := by intro c; rw [q2]; rfl
  have v2 : s2.channels = s.channels := by rw [q2]
  have w2 : s2.waitsForGap a.channel ↔ s.waitsForGap a.channel := by
    unfold State.waitsForGap
    rw [c2]
  have p2 : s2.pos = s.pos := by rw [q2]
  by_cases w : s.waitsForGap a.channel
  · rw [handOver_waits h (w2.2 w)]
    have r3 := updAction_recorded e2 (fun a => { a with state := .waitGap })
    have q3 := updAction_eq s2 h (fun a => { a with state := .waitGap })
    generalize (s2.updAction h (fun a => { a with state := .waitGap })) = s3 at r3 q3
    have vs : (s3.updChannel a.channel (fun ch =>
        { ch with fireCount := ch.fireCount + 1, waitSet := ch.waitSet ++ [h] })).channels =
        s3.channels.set a.channel.val { s3.channel a.channel with
          fireCount := (s3.channel a.channel).fireCount + 1, waitSet := (s3.channel a.channel).waitSet ++ [h] } := rfl
    exact
      { waits := fun _ => ⟨r2.trans e r3, by
          have v3 : s3.channels = s.channels := by rw [q3]; exact v2
          have c3 : s3.channel a.channel = s.channel a.channel := by rw [q3]; exact c2 _
          rw [vs, v3, c3]⟩
        turnsOn := fun x => absurd w x
        schedules := fun c => (by rw [q3]; rfl : _ = s2.schedule c).trans (k2 c)
        rest := by rw [q3]; exact ⟨by rw [q2]; rfl, f2⟩ }
  · rw [handOver_turnsOn h (fun x => w (w2.1 x))]
    generalize hs3 : (s2.updChannel a.channel _) = s3
    have q3 : s3 = { s2 with channels := s3.channels } := by subst hs3; rfl
    have e3 := (by rw [q3]; rfl : s3.action? h = s2.action? h).trans e2
    have r3 := turnOn_recorded e3 a.channel false
    have x3 := turnOn_eq s3 a.channel h false
    exact
      { waits := fun x => absurd x w
        turnsOn := fun _ => ⟨by
            have r5 := (r2.congr (fun i => (by rw [q3]; rfl : s3.entry i = s2.entry i))).trans e r3
            have p3 : s3.pos = s.pos := by rw [q3]; exact p2
            simp only [turnedOn, Bool.or_false, p3] at r5
            exact r5, by
            rw [x3]
            subst hs3
            dsimp only
            rw [channel_updChannel, if_pos rfl, c2]
            have twice : ∀ (v : Vector Channel 16) (x y : Channel),
                (v.set a.channel.val x).set a.channel.val y = v.set a.channel.val y := fun v x y => Vector.set_set ..
            refine (twice _ _ _).trans ?_
            rw [v2]⟩
        schedules := fun c => (by rw [x3, q3]; rfl : _ = s2.schedule c).trans (k2 c)
        rest := by rw [x3, q3]; exact ⟨by rw [q2], f2⟩ }

/-- R89. -/
theorem reachFire_reached {s : State} {h : Handle} {a : Action} (e : s.action? h = some a) :
    s.FireReached (s.reachFire h a) h a := by
  unfold State.reachFire
  cases c : a.condState with
  | holds =>
    exact { fires := fun _ => becomeFiring_handedOver e false
            overdue := fun x => absurd (c.symm.trans x) (by decide), never := fun x => absurd (c.symm.trans x) (by decide) }
  | fails =>
    exact { fires := fun x => absurd (c.symm.trans x) (by decide)
            overdue := fun x => absurd (c.symm.trans x) (by decide), never := fun _ => rfl }
  | unresolved =>
    refine { fires := fun x => absurd (c.symm.trans x) (by decide), never := fun x => absurd (c.symm.trans x) (by decide)
             overdue := fun _ => ?_ }
    dsimp only
    have r1 := updAction_recorded e (fun x => { x with state := .overdue })
    have q1 := updAction_eq s h (fun x => { x with state := .overdue })
    generalize (s.updAction h (fun x => { x with state := .overdue })) = s1 at r1 q1
    have side : ∀ x, x ≠ h → s1.isArmedAhead x = s.inPart3 x := fun x n => by
      rw [inPart3_eq, State.inPart3, r1.action_other e n, State.inPart3]
    refine ⟨r1.congr (fun _ => rfl), fun d => ?_, by rw [q1]; rfl, by rw [q1]; rfl, by rw [q1]; rfl⟩
    have sc : ∀ c, s1.schedule c = s.schedule c := by intro c; rw [q1]; rfl
    unfold State.moveToOverdue
    dsimp only
    rw [schedule_setSchedule]
    split
    · subst_vars
      rw [sc, List.filter_filter, List.filter_filter]
      congr 1
      · refine List.filter_congr (fun x _ => ?_)
        by_cases n : x = h
        · simp [n]
        · rw [side x n, Bool.and_comm]
      · congr 1
        refine List.filter_congr (fun x _ => ?_)
        by_cases n : x = h
        · simp [n]
        · rw [side x n, Bool.and_comm]
    · exact sc d

end State

/-! ### Part 3 of a schedule (R79) -/

theorem insertByKey_perm (key : Handle → Nat × Nat) (h : Handle) :
    ∀ xs, (insertByKey key h xs).Perm (h :: xs)
  | [] => .refl _
  | x :: xs => by
    unfold insertByKey
    split
    · exact .refl _
    · exact ((insertByKey_perm key h xs).cons x).trans (.swap h x xs)

theorem sortByKey_perm (key : Handle → Nat × Nat) : ∀ xs, (sortByKey key xs).Perm xs
  | [] => .refl _
  | x :: xs => (insertByKey_perm key x _).trans ((sortByKey_perm key xs).cons x)

theorem keyBefore_iff (x y : Nat × Nat) : keyBefore x y = true ↔ x.1 < y.1 ∨ x.1 = y.1 ∧ x.2 ≤ y.2 := by
  simp [keyBefore]

theorem insertByKey_sorted (key : Handle → Nat × Nat) (h : Handle) :
    ∀ xs : List Handle, xs.Pairwise (fun a b => keyBefore (key a) (key b) = true) →
      (insertByKey key h xs).Pairwise (fun a b => keyBefore (key a) (key b) = true)
  | [], _ => by simp [insertByKey]
  | x :: xs, p => by
    unfold insertByKey
    rw [List.pairwise_cons] at p
    split
    · rename_i e
      refine List.pairwise_cons.2 ⟨fun y hy => ?_, List.pairwise_cons.2 p⟩
      rcases List.mem_cons.1 hy with rfl | hy
      · exact e
      · have := p.1 y hy
        rw [keyBefore_iff] at *
        omega
    · rename_i e
      refine List.pairwise_cons.2 ⟨fun y hy => ?_, insertByKey_sorted key h xs p.2⟩
      rcases List.mem_cons.1 ((insertByKey_perm key h xs).subset hy) with rfl | hy
      · rw [keyBefore_iff] at *
        omega
      · exact p.1 y hy

theorem sortByKey_sorted (key : Handle → Nat × Nat) :
    ∀ xs : List Handle, (sortByKey key xs).Pairwise (fun a b => keyBefore (key a) (key b) = true)
  | [] => .nil
  | x :: xs => insertByKey_sorted key x _ (sortByKey_sorted key xs)

namespace State

/-- R79: a handle placed in part 3. -/
theorem placeAhead_placed (s : State) (c : Fin 16) (h : Handle) : s.PlacedIn (s.placeAhead c h) c h := by
  have sch : ∀ d, (s.placeAhead c h).schedule d = if d = c then
      ((s.schedule c).filter (fun x => x ≠ h)).filter (fun x => !s.isArmedAhead x) ++
        sortByKey s.scheduleKey (((s.schedule c).filter (fun x => x ≠ h)).filter s.isArmedAhead ++ [h]) else s.schedule d := by
    intro d
    unfold State.placeAhead
    rw [schedule_setSchedule]
  have p3 : ∀ x, (s.placeAhead c h).inPart3 x = s.isArmedAhead x := fun _ => rfl
  refine ⟨fun d n => by rw [sch, if_neg n], ?_⟩
  rw [sch, if_pos rfl]
  refine ⟨sortByKey s.scheduleKey (((s.schedule c).filter (fun x => x ≠ h)).filter s.isArmedAhead ++ [h]), ?_,
    (sortByKey_perm _ _).trans ?_, (sortByKey_sorted _ _).imp ?_⟩
  · rw [List.filter_filter]
    congr 1
    exact List.filter_congr (fun x _ => by rw [p3, Bool.and_comm])
  · refine (List.perm_append_comm).trans ?_
    rw [List.singleton_append, List.filter_filter]
    refine List.Perm.cons _ (.of_eq ?_)
    exact List.filter_congr (fun x _ => by rw [p3, Bool.and_comm])
  · intro x y k a b ha hb
    have ea : s.action? x = some a := ha
    have eb : s.action? y = some b := hb
    rw [keyBefore_iff] at k
    unfold State.scheduleKey at k
    rw [ea, eb] at k
    exact k

/-- R76, R83 steps 3 and 4. -/
theorem bindAction_bound {s t : State} {r : BindRequest} {h : Handle} (e : s.bindAction r = some (h, t)) :
    s.Bound t h (r.record h s.actions.bindCount) := by
  unfold State.bindAction at e
  split at e
  · cases e
  · rename_i i rest hf
    dsimp only at e
    simp only [Option.some.injEq, Prod.mk.injEq] at e
    obtain ⟨rfl, rfl⟩ := e
    refine { entry := ⟨i, hf, rfl, fun j => ?_⟩, items := rfl, schedules := ?_, rest := ⟨rfl, rfl⟩ }
    · show State.entry (State.setEntry _ _ _) j = _
      rw [entry_setEntry]
      rfl
    · have := placeAhead_placed (((({ s with actions :=
        { s.actions with freeList := rest, bindCount := s.actions.bindCount + 1 } } : State).setEntry i
          ⟨(s.entry i).generation, some (r.record (makeHandle (s.entry i).generation i) s.actions.bindCount)⟩).updItem r.item
            (fun it => { it with actions := it.actions ++ [makeHandle (s.entry i).generation i] }))) r.channel
              (makeHandle (s.entry i).generation i)
      exact this

/-! ### Closes -/

/-- The decision of an UNRESOLVED action at a close (R80, R90). -/
theorem resolveActions_decided (slots : PerPort Slot) (hs : List Handle) (s : State) :
    State.DecidedInTurn slots hs s (hs.foldl (fun t h => t.resolveAction slots h) s) := by
  induction hs generalizing s with
  | nil => exact .done s
  | cons h rest ih =>
    rw [List.foldl_cons]
    cases e : s.action? h with
    | none =>
      have : s.resolveAction slots h = s := by unfold State.resolveAction; rw [e]
      rw [this]
      exact .left s _ h rest (fun a n => by rw [names_iff, e] at n; cases n) (ih s)
    | some a =>
      have keep : (a.condState ≠ .unresolved ∨ decideCondition slots a.condition = .unresolved) →
          s.resolveAction slots h = s → State.DecidedInTurn slots (h :: rest) s
            (rest.foldl (fun t h => t.resolveAction slots h) (s.resolveAction slots h)) := by
        intro k r
        rw [r]
        refine .left s _ h rest (fun b n => ?_) (ih s)
        rw [names_iff, e] at n
        cases n
        exact k
      by_cases u : a.condState = .unresolved
      · cases d : decideCondition slots a.condition with
        | unresolved =>
          refine keep (.inr d) ?_
          unfold State.resolveAction
          rw [e]
          dsimp only
          rw [if_neg (by simp [u]), d]
        | holds =>
          have : s.resolveAction slots h = s.updAction h (fun x => { x with condState := .holds }) := by
            unfold State.resolveAction
            rw [e]
            dsimp only
            rw [if_neg (by simp [u]), d]
          rw [this]
          exact .holds s _ _ h rest a (names_iff.2 e) u d ⟨updAction_recorded e _, updAction_eq _ _ _⟩ (ih _)
        | fails =>
          have : s.resolveAction slots h =
              (s.updAction h (fun x => { x with condState := .fails })).endAction h .skipped := by
            unfold State.resolveAction
            rw [e]
            dsimp only
            rw [if_neg (by simp [u]), d]
          rw [this]
          have r := updAction_recorded e (fun x => { x with condState := .fails })
          exact .fails s _ _ _ h rest a (names_iff.2 e) u d ⟨r, updAction_eq _ _ _⟩
            (endAction_whole _ (r.action_self e)) (ih _)
      · refine keep (.inl u) ?_
        unfold State.resolveAction
        rw [e]
        dsimp only
        rw [if_pos u]

/-- The OVERDUE actions that a close decides TRUE (R90). -/
theorem fireOverdues_fired (hs : List Handle) (s : State) : State.FiredInTurn hs s (hs.foldl State.fireOverdue s) := by
  induction hs generalizing s with
  | nil => exact .done s
  | cons h rest ih =>
    rw [List.foldl_cons]
    cases e : s.action? h with
    | none =>
      have : s.fireOverdue h = s := by unfold State.fireOverdue; rw [e]
      rw [this]
      exact .left s _ h rest (fun a n => by rw [names_iff, e] at n; cases n) (ih s)
    | some a =>
      by_cases o : a.state = .overdue
      · have : s.fireOverdue h = s.becomeFiring h a true := by
          unfold State.fireOverdue
          rw [e]
          dsimp only
          rw [if_pos o]
        rw [this]
        exact .one s _ _ h rest a (names_iff.2 e) o (becomeFiring_handedOver e true) (ih _)
      · have : s.fireOverdue h = s := by
          unfold State.fireOverdue
          rw [e]
          dsimp only
          rw [if_neg o]
        rw [this]
        refine .left s _ h rest (fun b n => ?_) (ih s)
        rw [names_iff, e] at n
        cases n
        exact o

theorem inScheduleOrder_eq (s : State) (hs : List Handle) (f : Action → Bool) :
    s.inScheduleOrder (hs.filter (fun h => (s.action? h).any f)) = s.scheduledWhere hs f := by
  unfold State.inScheduleOrder State.scheduledWhere
  congr 1
  funext c
  refine List.filter_congr (fun h _ => ?_)
  rw [Bool.eq_iff_iff]
  simp

theorem recipe_congr {s t : State} (e : t.recipes = s.recipes) (i : Fin 8) : t.recipe i = s.recipe i := by
  unfold State.recipe
  rw [e]

theorem raiseHold_eq (s : State) (cause : Half) :
    s.raiseHold cause = { s with hold := (s.raiseHold cause).hold, ports := (s.raiseHold cause).ports } := by
  unfold State.raiseHold State.changeHold
  split
  · rfl
  · split <;> rfl

/-- Which actions fire at a close: the OVERDUE ones that it decides TRUE (R90). -/
theorem resolveItem_eq {s : State} {n : Half} {it : Item} (e : s.item? n = some it) :
    s.resolveItem n = (s.scheduledWhere it.actions (fun a => a.state = .overdue ∧ a.condState = .unresolved ∧
      decideCondition it.slots a.condition = .holds)).foldl State.fireOverdue
        (it.actions.foldl (fun t h => t.resolveAction it.slots h) s) := by
  unfold State.resolveItem
  rw [e]
  dsimp only
  rw [← inScheduleOrder_eq]
  congr 3
  funext h
  unfold State.dueAtClose
  congr 1
  funext a
  rw [Bool.eq_iff_iff]
  simp [and_assoc]

theorem becomeFiring_item (s : State) (h : Handle) (a : Action) (l : Bool) (n : Half) :
    (s.becomeFiring h a l).item? n = s.item? n := by
  unfold State.becomeFiring
  dsimp only
  generalize hv : State.moveToFiring _ _ _ = v
  have q : v.items = s.items := by subst hv; simp [State.moveToFiring]
  have r : ∀ u : State, (u.handOver a.channel h).items = u.items := by
    intro u
    by_cases w : u.waitsForGap a.channel
    · rw [handOver_waits h w]; simp
    · rw [handOver_turnsOn h w, turnOn_eq]; simp
  exact item_congr ((r v).trans q) n

theorem fireOverdues_item (hs : List Handle) (s : State) (n : Half) :
    (hs.foldl State.fireOverdue s).item? n = s.item? n := by
  induction hs generalizing s with
  | nil => rfl
  | cons h rest ih =>
    rw [List.foldl_cons, ih]
    unfold State.fireOverdue
    split
    · split
      · exact becomeFiring_item _ _ _ _ _
      · rfl
    · rfl

/-- The item that a number names after an event, where there is one, is the one that it named before, but for its state and its
action list. -/
def SameItems (s t : State) : Prop := ∀ n y, t.item? n = some y → ∃ x, s.item? n = some x ∧ x.Keeps y

theorem SameItems.refl (s : State) : s.SameItems s := fun _ y h => ⟨y, h, .refl y⟩

theorem SameItems.trans {s t u : State} (h1 : s.SameItems t) (h2 : t.SameItems u) : s.SameItems u := fun n z h =>
  let ⟨y, hy, k⟩ := h2 n z h
  let ⟨x, hx, l⟩ := h1 n y hy
  ⟨x, hx, l.trans k⟩

theorem SameItems.of_eq {s t : State} (e : t.items = s.items) : s.SameItems t := fun n y h =>
  ⟨y, (item_congr e n).symm.trans h, .refl y⟩

theorem SameItems.of_updItem (s : State) (m : Half) (f : Item → Item) (hf : ∀ x : Item, x.Keeps (f x)) :
    s.SameItems (s.updItem m f) := by
  intro n y h
  rw [item_updItem (hf := fun x => (hf x).number)] at h
  cases e : s.item? n with
  | none => rw [e] at h; cases h
  | some x =>
    rw [e] at h
    cases h
    refine ⟨x, rfl, ?_⟩
    dsimp only
    split
    · exact hf x
    · exact .refl x

theorem SameItems.removeRecord (s : State) (m : Half) (r : ExitReason) : s.SameItems (s.removeRecord m r) := by
  intro n y h
  refine ⟨y, ?_, .refl y⟩
  unfold State.item? at h ⊢
  rw [removeRecord_live] at h
  split at h
  · rw [List.find?_filter] at h
    by_cases e : n = m
    · subst e
      have := List.find?_some h
      simp at this
    · rw [← h]
      congr 1
      funext x
      by_cases q : x.number = n <;> simp [q, e]
  · exact h

theorem SameItems.endCore (s : State) (h : Handle) (o : ActionOutcome) : s.SameItems (s.endCore h o) := by
  cases b : s.action? h with
  | none => rw [endCore_stale _ b]; exact .refl s
  | some a =>
    exact (SameItems.of_updItem s a.item (fun it => { it with actions := it.actions.filter (fun x => x ≠ a.handle) })
      (fun x => { Item.Keeps.refl x with actions := List.filter_sublist })).trans (.of_eq (endCore_items o b))

theorem SameItems.foldl {α : Type} (f : State → α → State) (h : ∀ (s : State) (x : α), s.SameItems (f s x)) (xs : List α)
    (s : State) : s.SameItems (xs.foldl f s) :=
  foldl_related SameItems SameItems.refl (fun _ _ _ => SameItems.trans) f h xs s

theorem SameItems.reachExit (s : State) : s.SameItems s.reachExit.2 := by
  unfold State.reachExit
  split
  · exact .refl s
  · rename_i it rest e
    have l : s.SameItems (s.loseArmed it.actions) := .foldl _ (fun t h => by
      split
      · exact .refl t
      · exact .endCore t h _) _ s
    dsimp only
    split
    · exact l.trans (.removeRecord _ _ _)
    · exact l.trans (.of_updItem _ _ _ (fun x => { Item.Keeps.refl x with state := .inr rfl }))

theorem SameItems.headCheck (k : Nat) (s : State) : s.SameItems (State.headCheck k s) := by
  induction k generalizing s with
  | zero => exact .refl s
  | succ k ih =>
    unfold State.headCheck
    split
    · exact .refl s
    · split
      · split
        · exact (SameItems.reachExit s).trans (ih _)
        · exact .reachExit s
      · exact .refl s

theorem SameItems.removeItem (s : State) (n : Half) (r : ExitReason) : s.SameItems (s.removeItem n r) := by
  unfold State.removeItem
  split
  · exact (SameItems.removeRecord s n r).trans (.headCheck _ _)
  · exact .removeRecord s n r

theorem SameItems.endAction (s : State) (h : Handle) (o : ActionOutcome) : s.SameItems (s.endAction h o) := by
  unfold State.endAction
  split
  · exact .refl s
  · dsimp only
    split
    · split
      · exact (SameItems.endCore s h o).trans (.removeItem _ _ _)
      · exact .endCore s h o
    · exact .endCore s h o

theorem SameItems.resolveAction (s : State) (slots : PerPort Slot) (h : Handle) : s.SameItems (s.resolveAction slots h) := by
  unfold State.resolveAction
  split
  · exact .refl s
  · split
    · exact .refl s
    · split
      · exact .refl s
      · exact (SameItems.of_eq (by simp)).trans (.endAction _ h _)
      · exact .of_eq (by simp)

theorem SameItems.fireOverdues (hs : List Handle) (s : State) : s.SameItems (hs.foldl State.fireOverdue s) := by
  intro n y h
  rw [fireOverdues_item] at h
  exact ⟨y, h, .refl y⟩

theorem voterSlots_open (x : PerPort Slot) :
    (voterSlots x).any Slot.isOpen = true ↔ ∃ q y, x.get q = .opened y := by
  obtain ⟨a, b, c⟩ := x
  unfold voterSlots
  constructor
  · intro h
    simp only [List.any_eq_true, List.mem_filter, List.mem_cons, List.not_mem_nil, or_false] at h
    obtain ⟨z, ⟨m, _⟩, o⟩ := h
    have : ∃ y, z = .opened y := by
      cases z with
      | opened y => exact ⟨y, rfl⟩
      | absent => cases o
      | closed => cases o
    obtain ⟨y, rfl⟩ := this
    rcases m with m | m | m
    · exact ⟨.A, y, m.symm⟩
    · exact ⟨.B, y, m.symm⟩
    · exact ⟨.C, y, m.symm⟩
  · rintro ⟨q, y, h⟩
    simp only [List.any_eq_true, List.mem_filter, List.mem_cons, List.not_mem_nil, or_false]
    refine ⟨.opened y, ⟨?_, by simp⟩, rfl⟩
    cases q
    · exact .inl h.symm
    · exact .inr (.inl h.symm)
    · exact .inr (.inr h.symm)

/-- What ITEM_DECIDED says of the slots (R115), all of them CLOSED or NONE. -/
theorem anyReject_iff {x : PerPort Slot} (h : ∀ q y, x.get q ≠ .opened y) :
    (!(voterSlots x).all (fun z => z.closedAs .accept)) = true ↔ ∃ q code src, x.get q = .closed .reject code src := by
  obtain ⟨a, b, c⟩ := x
  have ha : ∀ y, a ≠ .opened y := h .A
  have hb : ∀ y, b ≠ .opened y := h .B
  have hc : ∀ y, c ≠ .opened y := h .C
  have ex : (∃ q code src, (⟨a, b, c⟩ : PerPort Slot).get q = .closed .reject code src) ↔
      (∃ code src, a = .closed .reject code src) ∨ (∃ code src, b = .closed .reject code src) ∨
        ∃ code src, c = .closed .reject code src :=
    ⟨fun ⟨q, r⟩ => by
      cases q
      · exact .inl r
      · exact .inr (.inl r)
      · exact .inr (.inr r),
     fun r => by
      rcases r with r | r | r
      · exact ⟨.A, r⟩
      · exact ⟨.B, r⟩
      · exact ⟨.C, r⟩⟩
  rw [ex]
  unfold voterSlots
  rcases a with _ | o | ⟨_ | _, _, _⟩ <;> try exact absurd rfl (ha o)
  all_goals rcases b with _ | o | ⟨_ | _, _, _⟩ <;> try exact absurd rfl (hb o)
  all_goals rcases c with _ | o | ⟨_ | _, _, _⟩ <;> try exact absurd rfl (hc o)
  all_goals simp [Slot.closedAs]

theorem holdDefault_iff (body : RecipeBody) (x : PerPort Slot) :
    holdDefaultTaken body x = true ↔ ∃ q v code, x.get q = .closed v code .byDefault ∧ body.default_.get q = .hold := by
  unfold holdDefaultTaken
  simp only [List.any_eq_true]
  constructor
  · rintro ⟨q, _, h⟩
    split at h
    · rename_i v code e
      exact ⟨q, v, code, e, by simpa using h⟩
    · cases h
  · rintro ⟨q, v, code, e, d⟩
    refine ⟨q, by cases q <;> simp [ports3], ?_⟩
    rw [e]
    simpa using d

/-- R111, R112, R115: a close as one event. -/
theorem closeSlots_closed {s : State} {n : Half} {it : Item} (e : s.item? n = some it) (slots : PerPort Slot) (held : Bool)
    (source : CloseSource) : s.SlotsClosed (s.closeSlots n slots held source) it slots held source := by
  have hn := number_of_item e
  have e1 : (s.updItem n (fun it => { it with slots := slots })).item? n = some { it with slots := slots } := by
    rw [item_updItem (hf := by intro _; rfl), e]
    simp [hn]
  generalize hs1 : s.updItem n (fun it => { it with slots := slots }) = s1 at e1
  have l1 : ({ s with items := { s.items with live := s.items.live.map (fun y =>
      if y.number = it.number then { y with slots := slots } else y) } } : State) = s1 := by
    subst hs1
    rw [hn]
    rfl
  generalize hu : (if held then s1.raiseHold causeLateVerdict else s1) = u
  have iu : u.items = s1.items ∧ u.recipes = s.recipes ∧ u.pos = s.pos := by
    subst hu hs1
    split
    · rw [raiseHold_eq]
      exact ⟨rfl, rfl, rfl⟩
    · exact ⟨rfl, rfl, rfl⟩
  have eu : u.item? n = some { it with slots := slots } := (item_congr iu.1 n).trans e1
  have hc : s1.HoldChanged u (if held = true ∧ s.line.holdMask &&& 0x0080 ≠ 0 then s.hold ||| 0x0080 else s.hold)
      .raised none := by
    subst hu
    by_cases h : held = true
    · rw [if_pos h]
      have := raiseHold_changed s1 causeLateVerdict
      have l : s1.line = s.line := by subst hs1; rfl
      have k : s1.hold = s.hold := by subst hs1; rfl
      rw [l, k] at this
      by_cases m : s.line.holdMask &&& causeLateVerdict = 0
      · rw [if_pos m] at this
        rw [if_neg (fun x => x.2 m)]
        exact this
      · rw [if_neg m] at this
        rw [if_pos ⟨h, m⟩]
        exact this
    · rw [if_neg h, if_neg (fun x => h x.1)]
      have k : s1.hold = s.hold := by subst hs1; rfl
      rw [← k]
      exact .of_same s1 _ _
  have hr := resolveItem_eq eu
  have hv := resolveActions_decided slots it.actions u
  have sv : u.SameItems (it.actions.foldl (fun t h => t.resolveAction slots h) u) :=
    .foldl _ (fun t h => .resolveAction t slots h) _ u
  have bv : ∀ i, ((it.actions.foldl (fun t h => t.resolveAction slots h) u).recipe i).body = (s.recipe i).body := by
    intro i
    have := (Runs.foldl (k := True) (fun t h => t.resolveAction slots h) (fun t h => Runs.resolveAction t slots h) it.actions u).body i
    rw [this.2, recipe_congr iu.2.1]
  have pv : (it.actions.foldl (fun t h => t.resolveAction slots h) u).pos.lp = s.pos.lp := by
    rw [(Runs.foldl (k := True) (fun t h => t.resolveAction slots h) (fun t h => Runs.resolveAction t slots h) it.actions u).lp,
      iu.2.2]
  generalize (it.actions.foldl (fun t h => t.resolveAction slots h) u) = v at hr hv sv bv pv
  have hw := fireOverdues_fired (u.scheduledWhere it.actions (fun a => a.state = .overdue ∧ a.condState = .unresolved ∧
      decideCondition slots a.condition = .holds)) v
  have sw := SameItems.fireOverdues (u.scheduledWhere it.actions (fun a => a.state = .overdue ∧ a.condState = .unresolved ∧
      decideCondition slots a.condition = .holds)) v
  have rw_ := Runs.foldl (k := True) State.fireOverdue (fun t h => Runs.fireOverdue t h)
    (u.scheduledWhere it.actions (fun a => a.state = .overdue ∧ a.condState = .unresolved ∧
      decideCondition slots a.condition = .holds)) v
  have ew : u.resolveItem n = (u.scheduledWhere it.actions (fun a => a.state = .overdue ∧ a.condState = .unresolved ∧
      decideCondition slots a.condition = .holds)).foldl State.fireOverdue v := hr
  rw [← ew] at hw sw rw_
  have et : s.closeSlots n slots held source = (u.resolveItem n).postDecided n source := by
    subst hu hs1
    rfl
  rw [et]
  generalize u.resolveItem n = w at hw sw rw_
  refine ⟨u, v, w, by rw [l1]; exact hc, hv, hw, ?_, ?_⟩
  · intro h
    unfold State.postDecided
    cases ei : w.item? n with
    | none => rfl
    | some y =>
      dsimp only
      obtain ⟨x, hx, k⟩ := (sv.trans sw) n y ei
      rw [eu] at hx
      cases hx
      rcases h with h | h
      · rw [if_pos (by rw [k.slots]; exact (voterSlots_open slots).2 h)]
      · rw [hn, ei] at h
        cases h
  · intro h hi
    unfold State.postDecided
    cases ei : w.item? n with
    | none => rw [hn] at hi; exact absurd ei hi
    | some y =>
      dsimp only
      obtain ⟨x, hx, k⟩ := (sv.trans sw) n y ei
      rw [eu] at hx
      cases hx
      rw [if_neg (by rw [k.slots]; exact fun o => let ⟨q, z, g⟩ := (voterSlots_open slots).1 o; h q z g)]
      refine ⟨rfl, !(voterSlots slots).all (fun z => z.closedAs .accept), holdDefaultTaken (s.recipe it.recipe).body slots,
        anyReject_iff h, holdDefault_iff _ _, ?_⟩
      have b : w.bodyOf y = (s.recipe it.recipe).body := by
        unfold State.bodyOf
        rw [(rw_.body _).2, bv, k.recipe]
      have pw : w.pos.lp = s.pos.lp := by rw [rw_.lp, pv]
      rw [k.slots, b, hn, pw]
      exact post_posted _ _ _ _ rfl

/-- R113. -/
theorem forceClose_closed {s : State} {n : Half} {it : Item} (e : s.item? n = some it) :
    s.ForceClosed (s.forceClose n) it := by
  unfold State.forceClose State.ForceClosed
  rw [e]
  dsimp only
  refine ⟨fun h => ?_, fun h => ?_⟩
  · rw [if_neg]
    intro o
    obtain ⟨q, y, g⟩ := (voterSlots_open _).1 o
    exact h q y g
  · rw [if_pos ((voterSlots_open _).2 h)]
    exact closeSlots_closed e _ _ _

/-- R110 to R112. -/
theorem closeAtDecision_reached {s : State} {n : Half} {it : Item} (e : s.item? n = some it) (p : Port) :
    s.DecisionReached (s.closeAtDecision n p) it p := by
  unfold State.closeAtDecision State.DecisionReached State.bodyOf
  rw [e]
  dsimp only
  generalize it.slots.get p = x
  refine ⟨fun h => ?_, fun h => ?_, fun v code h => ?_⟩
  · split
    · exact absurd rfl (h _)
    · rfl
  · subst h
    have := closeSlots_closed e (it.slots.set p (closedSlot none ((s.recipe it.recipe).body.default_.get p)))
      ((none : Option (Verdict × BitVec 6)).isNone && (s.recipe it.recipe).body.default_.get p = .hold) .byDefault
    simpa [closedSlot] using this
  · subst h
    exact closeSlots_closed e _ _ _

/-- R43. -/
theorem jamItem_reached {s : State} {n : Half} {it : Item} (e : s.item? n = some it) : s.JamReached (s.jamItem n) it := by
  have hn := number_of_item e
  subst hn
  unfold State.jamItem State.JamReached
  rw [e]
  dsimp only
  rw [plusCounts_offset]
  generalize hu : State.post _ _ _ _ = u
  refine ⟨u, by subst hu; rfl, by subst hu; exact post_posted _ _ _ _ rfl, ?_⟩
  have l : u.line = s.line ∧ u.hold = s.hold := by subst hu; exact ⟨rfl, rfl⟩
  have := raiseHold_changed u causeJam
  rw [l.1, l.2] at this
  exact this

theorem missEnd_offset (b : Position) (i : Input) :
    plusCounts b (missOffset i) = b + i.nominal.setWidth 32 + i.window.setWidth 32 := by
  unfold plusCounts missOffset
  rw [BitVec.add_assoc]
  congr 1

/-- R130, R131. -/
theorem missCheckpoint_reached {s : State} {n : Half} {it : Item} (e : s.item? n = some it) (k : Fin 8) :
    s.MissReached (s.missCheckpoint n k) it k := by
  have hn := number_of_item e
  subst hn
  unfold State.missCheckpoint State.MissReached
  rw [e]
  dsimp only
  rw [missEnd_offset]
  generalize hu : State.post _ _ _ _ = u
  have iu : u.item? it.number = some
      { it with marks := it.marks ++ [⟨k, .missed⟩], flags := { it.flags with missed := true } } := by
    subst hu
    refine (item_congr (s := s.updItem it.number (fun x =>
      { x with marks := x.marks ++ [⟨k, .missed⟩], flags := { x.flags with missed := true } })) (by simp) _).trans ?_
    rw [item_updItem (hf := by intro _; rfl), e]
    simp
  refine ⟨u, by subst hu; rfl, by subst hu; exact post_posted _ _ _ _ rfl, ?_⟩
  unfold State.onMissAction
  cases (s.input k).onMiss with
  | note => rfl
  | hold =>
    have l : u.line = s.line ∧ u.hold = s.hold := by subst hu; exact ⟨rfl, rfl⟩
    have := raiseHold_changed u causeCheckpointMiss
    rw [l.1, l.2] at this
    exact this
  | reject => exact ⟨_, iu, forceClose_closed iu⟩
  | remove => exact ⟨_, iu, takeOut_takenOut iu _⟩

/-! ### The Stage Queue -/

/-- R71. -/
theorem applyStage_applied {s : State} {e : StageEntry} {rest : List StageEntry} (h : s.recipes.stage = e :: rest) :
    s.StageApplied s.applyStage e rest := by
  unfold State.applyStage State.StageApplied
  rw [h]
  exact ⟨rfl, rfl, post_posted _ _ _ _ rfl⟩

/-- R70, R71 step 4. -/
theorem checkStage_checked (k : Nat) (s : State) (h : s.recipes.stage.length ≤ k) : State.StageChecked s (State.checkStage k s) := by
  induction k generalizing s with
  | zero =>
    refine .settled s fun i x rest e => ?_
    rw [e] at h
    cases h
  | succ k ih =>
    unfold State.checkStage
    split
    · rename_i i x rest e
      split
      · rename_i a
        refine .settled s fun j y r e2 => ?_
        rw [e] at e2
        cases e2
        exact (isAhead_iff _ _).1 a
      · rename_i a
        have ap := applyStage_applied e
        refine .applied s _ _ i x rest (fun c => a ((isAhead_iff _ _).2 c)) ap (ih _ ?_)
        rw [ap.2.1]
        rw [e] at h
        exact Nat.le_of_succ_le_succ h
    · rename_i ne
      exact .settled s fun i x rest e => absurd e (ne i x rest)

theorem checkStageHead_checked (s : State) : State.StageChecked s s.checkStageHead := checkStage_checked _ s (Nat.le_refl _)

/-! ### Watched points -/

theorem unmarked_iff (it : Item) (k : Fin 8) : it.unmarked k = true ↔ ∀ m ∈ it.marks, m.input ≠ k := by
  unfold Item.unmarked
  simp

theorem isHead_iff (s : State) (n : Half) :
    s.isHead n = true ↔ s.items.live.head?.any (fun y => y.number = n) = true := by
  unfold State.isHead
  cases s.items.live <;> simp

theorem open_iff (x : Slot) : x.isOpen = true ↔ ∃ y, x = .opened y := by
  cases x <;> simp [Slot.isOpen]

/-- R8: the points of an item that are watched. -/
theorem mem_watchedPoints {s : State} {jam : Bool} {it : Item} {w : WatchedPoint} :
    w ∈ s.watchedPoints jam it ↔ s.Watches it w.offset w.position w.kind ∧ (jam = false → w.kind ≠ .jam) := by
  obtain ⟨o, x, k⟩ := w
  unfold State.watchedPoints
  simp only [List.mem_append, List.mem_map, List.mem_filter]
  constructor
  · rintro (((h | ⟨p, ⟨_, h⟩, e⟩) | ⟨k, ⟨_, h⟩, e⟩) | h)
    · split at h
      · rename_i c
        simp only [Bool.and_eq_true, decide_eq_true_eq] at c
        simp only [List.mem_singleton, WatchedPoint.mk.injEq] at h
        obtain ⟨rfl, rfl, rfl⟩ := h
        refine ⟨?_, by rw [c.1]; simp⟩
        rw [plusCounts_offset]
        exact .jam c.2 _ rfl
      · cases h
    · cases e
      obtain ⟨y, g⟩ := (open_iff _).1 h
      refine ⟨?_, by simp⟩
      rw [plusCounts_offset]
      exact .decision p y g
    · cases e
      simp only [Bool.and_eq_true, decide_eq_true_eq] at h
      refine ⟨?_, by simp⟩
      rw [missEnd_offset]
      exact .missEnd k h.1 ((unmarked_iff _ _).1 h.2)
    · split at h
      · rename_i c
        simp only [Bool.and_eq_true, decide_eq_true_eq] at c
        simp only [List.mem_singleton, WatchedPoint.mk.injEq] at h
        obtain ⟨rfl, rfl, rfl⟩ := h
        refine ⟨?_, by simp⟩
        unfold State.exitPointOf
        rw [plusCounts_offset]
        exact .exit ((isHead_iff _ _).1 c.1) (by simpa using c.2)
      · cases h
  · rintro ⟨h, j⟩
    cases h with
    | jam h length eq =>
      left; left; left
      have : jam = true := by simpa using j
      subst this eq
      rw [if_pos (by simpa using h)]
      rw [← plusCounts_offset]
      exact List.mem_singleton.2 rfl
    | decision p y h =>
      left; left; right
      exact ⟨p, ⟨by cases p <;> simp [ports3], (open_iff _).2 ⟨y, h⟩⟩, by rw [plusCounts_offset]; rfl⟩
    | missEnd k h u =>
      left; right
      exact ⟨k, ⟨List.mem_finRange k, by simp [h, (unmarked_iff _ _).2 u]⟩, by rw [missEnd_offset]; rfl⟩
    | exit head h =>
      right
      rw [if_pos (by simp [(isHead_iff _ _).2 head, h])]
      unfold State.exitPointOf
      rw [plusCounts_offset]
      exact List.mem_singleton.2 rfl

theorem countP_lt {α : Type} {p q : α → Bool} (h : ∀ x, p x = true → q x = true) {y : α} (hq : q y = true)
    (hp : p y = false) : ∀ {xs : List α}, y ∈ xs → xs.countP p < xs.countP q
  | x :: xs, m => by
    have le : xs.countP p ≤ xs.countP q := List.countP_mono_left (fun z _ => h z)
    rw [List.countP_cons, List.countP_cons]
    rcases List.mem_cons.1 m with e | m
    · subst e
      rw [hq, hp]
      simp only [if_pos, Bool.false_eq_true, if_false]
      omega
    · have := countP_lt h hq hp m
      by_cases c : p x = true
      · rw [c, h x c]
        omega
      · simp only [Bool.not_eq_true] at c
        rw [c]
        simp only [Bool.false_eq_true, if_false]
        omega

/-- How many points of an item may still be watched, whether or not it is the head. -/
def pointsLeft (it : Item) : Nat :=
  (if it.state = .entering then 1 else 0) + ports3.countP (fun p => (it.slots.get p).isOpen) +
    (List.finRange 8).countP it.unmarked + if it.state = .leaving then 0 else 1

theorem pointsLeft_le (it : Item) : pointsLeft it ≤ maxItemPoints := by
  unfold pointsLeft maxItemPoints
  have h1 : ports3.countP (fun p => (it.slots.get p).isOpen) ≤ 3 := List.countP_le_length
  have h2 : (List.finRange 8).countP it.unmarked ≤ 8 := List.countP_le_length
  have h3 : (if it.state = .entering then 1 else 0) ≤ 1 := by split <;> omega
  have h4 : (if it.state = .leaving then 0 else 1) ≤ 1 := by split <;> omega
  omega

theorem pointsLeft_keeps {x y : Item} (k : x.Keeps y) : pointsLeft y ≤ pointsLeft x := by
  unfold pointsLeft
  have hm : y.unmarked = x.unmarked := by
    funext k'
    unfold Item.unmarked
    rw [k.marks]
  rw [k.slots, hm]
  rcases k.state with e | e
  · rw [e]
  · rw [e]
    simp only [reduceCtorEq, if_false, if_true]
    omega

theorem pointsLeft_lt_of_leaving {x y : Item} (k : x.Keeps y) (h : x.state ≠ .leaving) (l : y.state = .leaving) :
    pointsLeft y < pointsLeft x := by
  unfold pointsLeft
  have hm : y.unmarked = x.unmarked := by
    funext k'
    unfold Item.unmarked
    rw [k.marks]
  rw [k.slots, hm, l, if_neg h]
  simp only [reduceCtorEq, if_false, if_true]
  omega

theorem pointsLeft_jam {x : Item} (h : x.state = .entering) (f : ItemFlags) :
    pointsLeft { x with state := .tracked, flags := f } < pointsLeft x := by
  unfold pointsLeft Item.unmarked
  simp [h]

theorem pointsLeft_slot {x : Item} {p : Port} (h : (x.slots.get p).isOpen = true) (c : Slot) (hc : c.isOpen = false) :
    pointsLeft { x with slots := x.slots.set p c } < pointsLeft x := by
  unfold pointsLeft Item.unmarked
  have : ports3.countP (fun q => ((x.slots.set p c).get q).isOpen) < ports3.countP (fun q => (x.slots.get q).isOpen) := by
    cases p <;> simp only [PerPort.get, PerPort.set, ports3, List.countP_cons, List.countP_nil] at h ⊢ <;>
      rw [h, hc] <;> simp
  simp only
  omega

theorem pointsLeft_closed (x : Item) :
    pointsLeft { x with slots := ⟨forceSlot x.slots.a, forceSlot x.slots.b, forceSlot x.slots.c⟩ } ≤ pointsLeft x := by
  unfold pointsLeft Item.unmarked
  have g : ∀ z, (forceSlot z).isOpen = false := by
    intro z
    cases z <;> rfl
  have : ports3.countP (fun q => ((⟨forceSlot x.slots.a, forceSlot x.slots.b, forceSlot x.slots.c⟩ : PerPort Slot).get q).isOpen) = 0 := by
    simp [ports3, PerPort.get, g]
  simp only
  omega

theorem pointsLeft_mark {x : Item} {k : Fin 8} (h : x.unmarked k = true) (r : MarkResult) (f : ItemFlags) :
    pointsLeft { x with marks := x.marks ++ [⟨k, r⟩], flags := f } < pointsLeft x := by
  unfold pointsLeft
  have : (List.finRange 8).countP ({ x with marks := x.marks ++ [⟨k, r⟩], flags := f } : Item).unmarked <
      (List.finRange 8).countP x.unmarked := by
    have hu : ({ x with marks := x.marks ++ [⟨k, r⟩], flags := f } : Item).unmarked =
        fun j => decide (j ≠ k) && x.unmarked j := by
      funext j
      unfold Item.unmarked
      simp only [List.all_append, List.all_cons, List.all_nil, Bool.and_true]
      rw [Bool.and_comm]
      congr 1
      rw [decide_eq_decide]
      exact ne_comm
    rw [hu]
    exact countP_lt (y := k) (fun j hj => ((Bool.and_eq_true _ _).mp hj).2) h (by simp) (List.mem_finRange k)
  simp only
  omega

theorem SameItems.none {s t : State} (h : s.SameItems t) {n : Half} (e : s.item? n = none) : t.item? n = none := by
  cases ei : t.item? n with
  | none => rfl
  | some y =>
    obtain ⟨x, hx, _⟩ := h n y ei
    rw [e] at hx
    cases hx

theorem SameItems.raiseHold (s : State) (cause : Half) : s.SameItems (s.raiseHold cause) := by
  rw [raiseHold_eq]
  exact .of_eq rfl

theorem SameItems.cutActions (hs : List Handle) (s : State) : s.SameItems (s.cutActions hs) :=
  .foldl _ (fun t h => .endCore t h _) hs s

theorem SameItems.takeOut (s : State) (n : Half) (r : ExitReason) : s.SameItems (s.takeOut n r) := by
  unfold State.takeOut
  split
  · exact .refl s
  · exact (SameItems.cutActions _ s).trans (.removeItem _ _ _)

theorem SameItems.closeSlots {s : State} (n : Half) (slots : PerPort Slot) (held : Bool) (src : CloseSource) :
    (s.updItem n (fun it => { it with slots := slots })).SameItems (s.closeSlots n slots held src) := by
  unfold State.closeSlots
  dsimp only
  generalize hs1 : s.updItem n (fun it => { it with slots := slots }) = s1
  have h1 : s1.SameItems (if held then s1.raiseHold causeLateVerdict else s1) := by
    split
    · exact .raiseHold _ _
    · exact .refl _
  generalize (if held then s1.raiseHold causeLateVerdict else s1) = u at h1
  have h2 : u.SameItems (u.resolveItem n) := by
    cases e : u.item? n with
    | none =>
      unfold State.resolveItem
      rw [e]
      exact .refl _
    | some it =>
      rw [resolveItem_eq e]
      exact (SameItems.foldl _ (fun t h => .resolveAction t _ h) _ u).trans (.fireOverdues _ _)
  have h3 : (u.resolveItem n).SameItems ((u.resolveItem n).postDecided n src) := by
    unfold State.postDecided
    split
    · exact .refl _
    · dsimp only
      split
      · exact .refl _
      · exact .of_eq (by simp)
  exact (h1.trans h2).trans h3

/-- What is left of an item after an event: nothing, or a record with no more points left than `k`. -/
def LeftAtMost (t : State) (n : Half) (k : Nat) : Prop := ∀ y, t.item? n = some y → pointsLeft y ≤ k

theorem LeftAtMost.same {s t : State} {n : Half} {k : Nat} (h : s.LeftAtMost n k) (st : s.SameItems t) : t.LeftAtMost n k := by
  intro y e
  obtain ⟨x, hx, kx⟩ := st n y e
  exact Nat.le_trans (pointsLeft_keeps kx) (h x hx)

theorem item_updSelf {s : State} {n : Half} {it : Item} (e : s.item? n = some it) (f : Item → Item)
    (hf : ∀ x, (f x).number = x.number) : (s.updItem n f).item? n = some (f it) := by
  rw [item_updItem (hf := hf), e]
  simp [number_of_item e]

theorem LeftAtMost.of_updItem {s : State} {n : Half} {it : Item} (e : s.item? n = some it) (f : Item → Item)
    (hf : ∀ x, (f x).number = x.number) {k : Nat} (h : pointsLeft (f it) ≤ k) : (s.updItem n f).LeftAtMost n k := by
  intro y ey
  rw [item_updSelf e f hf] at ey
  cases ey
  exact h

theorem LeftAtMost.forceClose {s : State} {n : Half} {k : Nat} (h : s.LeftAtMost n k) : (s.forceClose n).LeftAtMost n k := by
  unfold State.forceClose
  split
  · exact h
  · rename_i it e
    split
    · exact LeftAtMost.same (.of_updItem e _ (by intro _; rfl)
        (Nat.le_trans (pointsLeft_closed it) (h it e))) (.closeSlots _ _ _ _)
    · exact h

theorem LeftAtMost.onMissAction {s : State} {n : Half} {k : Nat} (h : s.LeftAtMost n k) (m : OnMiss) :
    (s.onMissAction n m).LeftAtMost n k := by
  unfold State.onMissAction
  cases m with
  | note => exact h
  | hold => exact h.same (.raiseHold _ _)
  | reject => exact h.forceClose
  | remove => exact h.same (.takeOut _ _ _)

theorem removeRecord_item {s : State} {n : Half} (r : ExitReason) : (s.removeRecord n r).item? n = none := by
  cases e : (s.removeRecord n r).item? n with
  | none => rfl
  | some y =>
    unfold State.item? at e
    rw [removeRecord_live] at e
    split at e
    · have m := List.mem_of_find?_eq_some e
      have q := List.find?_some e
      simp only [List.mem_filter, decide_eq_true_eq] at m q
      exact absurd q m.2
    · rename_i c
      exact absurd e (by simp_all [State.item?])

theorem exitHead_left {s : State} {n : Half} {it : Item} (e : s.item? n = some it) (h : s.isHead n = true)
    (l : it.state ≠ .leaving) : s.exitHead.LeftAtMost n (pointsLeft it - 1) := by
  have hp : 0 < pointsLeft it := by
    unfold pointsLeft
    rw [if_neg l]
    omega
  obtain ⟨rest, hl⟩ : ∃ rest, s.items.live = it :: rest := by
    unfold State.isHead at h
    unfold State.item? at e
    cases hl : s.items.live with
    | nil => rw [hl] at e; cases e
    | cons x xs =>
      rw [hl] at e h
      simp only [decide_eq_true_eq] at h
      simp only [List.find?_cons, h, decide_true] at e
      cases e
      exact ⟨xs, rfl⟩
  have hn := number_of_item e
  have lost : s.SameItems (s.loseArmed it.actions) := .foldl _ (fun t h => by
      split
      · exact .refl t
      · exact .endCore t h _) _ s
  have key : (s.reachExit.1 = true → s.reachExit.2.item? n = none) ∧
      (s.reachExit.1 = false → s.reachExit.2.LeftAtMost n (pointsLeft it - 1)) := by
    unfold State.reachExit
    rw [hl]
    dsimp only
    split
    · refine ⟨fun _ => ?_, fun c => Bool.noConfusion c⟩
      rw [hn]
      exact removeRecord_item _
    · refine ⟨fun c => Bool.noConfusion c, fun _ => ?_⟩
      intro y ey
      rw [hn] at ey
      cases ex : (s.loseArmed it.actions).item? n with
      | none =>
        rw [item_updItem (hf := by intro _; rfl), ex] at ey
        cases ey
      | some x =>
        dsimp only at ey
        rw [item_updSelf ex _ (by intro _; rfl)] at ey
        cases ey
        obtain ⟨z, hz, kz⟩ := lost n x ex
        rw [e] at hz
        cases hz
        have := pointsLeft_lt_of_leaving (y := { x with state := .leaving })
          (kz.trans { Item.Keeps.refl x with state := .inr rfl }) l rfl
        omega
  unfold State.exitHead
  split
  · rename_i c
    intro y ey
    have := SameItems.none (.headCheck _ _) (key.1 c) (t := s.reachExit.2.checkHead)
    rw [this] at ey
    cases ey
  · rename_i c
    exact key.2 (by simpa using c)

/-- Acting on a watched point of an item leaves it with fewer. -/
theorem actOnPoint_left {s : State} {n : Half} {it : Item} (e : s.item? n = some it) {o : Nat} {x : Position} {w : ItemPoint}
    (h : s.Watches it o x w) : (s.actOnPoint n w).LeftAtMost n (pointsLeft it - 1) := by
  have hn := number_of_item e
  cases h with
  | jam h length eq =>
    unfold State.actOnPoint State.jamItem
    simp only
    rw [e]
    have := pointsLeft_jam h { it.flags with jam := true }
    exact LeftAtMost.same (.of_updItem e (fun x => { x with state := .tracked, flags := { x.flags with jam := true } })
      (fun _ => rfl) (by omega)) (SameItems.trans (.of_eq (by simp)) (.raiseHold _ _))
  | decision p y h =>
    unfold State.actOnPoint State.closeAtDecision
    simp only
    rw [e]
    dsimp only
    rw [h]
    dsimp only
    refine LeftAtMost.same (.of_updItem e _ (by intro _; rfl) ?_) (.closeSlots _ _ _ _)
    have := pointsLeft_slot (x := it) (p := p) ((open_iff _).2 ⟨y, h⟩)
      (closedSlot y ((s.bodyOf it).default_.get p)) (by unfold closedSlot; cases y <;> rfl)
    omega
  | missEnd k h u =>
    unfold State.actOnPoint State.missCheckpoint
    simp only
    rw [e]
    dsimp only
    apply LeftAtMost.onMissAction
    have := pointsLeft_mark ((unmarked_iff _ _).2 u) .missed { it.flags with missed := true }
    exact LeftAtMost.same (.of_updItem e (fun x =>
      { x with marks := x.marks ++ [⟨k, .missed⟩], flags := { x.flags with missed := true } }) (fun _ => rfl) (by omega))
      (.of_eq (by simp))
  | exit head h =>
    rw [hn] at head
    exact exitHead_left e ((isHead_iff _ _).2 head) h

theorem pointsLeft_pos {s : State} {it : Item} {o : Nat} {x : Position} {w : ItemPoint} (h : s.Watches it o x w) :
    0 < pointsLeft it := by
  unfold pointsLeft
  cases h with
  | jam h length eq => rw [if_pos h]; omega
  | decision p y h =>
    have : 0 < ports3.countP (fun p => (it.slots.get p).isOpen) :=
      List.countP_pos_iff.2 ⟨p, by cases p <;> simp [ports3], (open_iff _).2 ⟨y, h⟩⟩
    omega
  | missEnd k h u =>
    have : 0 < (List.finRange 8).countP it.unmarked :=
      List.countP_pos_iff.2 ⟨k, List.mem_finRange k, (unmarked_iff _ _).2 u⟩
    omega
  | exit head h => rw [if_neg h]; omega

theorem exists_least {α : Type} (f : α → Nat) : ∀ {xs : List α}, xs ≠ [] → ∃ x ∈ xs, ∀ y ∈ xs, f x ≤ f y
  | [x], _ => ⟨x, by simp, by simp⟩
  | x :: z :: xs, _ => by
    obtain ⟨y, m, h⟩ := exists_least f (xs := z :: xs) (by simp)
    by_cases c : f x ≤ f y
    · exact ⟨x, by simp, fun w hw => (List.mem_cons.1 hw).elim (fun e => e ▸ Nat.le_refl _) (fun hw => Nat.le_trans c (h w hw))⟩
    · exact ⟨y, List.mem_cons_of_mem _ m, fun w hw => (List.mem_cons.1 hw).elim (fun e => by subst e; omega) (h w)⟩

theorem pointBehind_iff {s : State} {created : Option Position} {v : WatchedPoint} :
    (created.isSome = false → v.kind ≠ .jam) → (pointBehind s.pos.lp created v = true ↔ ¬s.Ahead v.position ∧
      match created with
      | none => v.kind ≠ .jam
      | some entry => ¬s.Ahead entry) := by
  intro h
  unfold pointBehind
  cases created with
  | none =>
    simp only [Bool.not_eq_true', ← Bool.not_eq_true, isAhead_iff]
    exact ⟨fun c => ⟨c, h rfl⟩, fun c => c.1⟩
  | some entry =>
    simp only [Bool.and_eq_true, Bool.not_eq_true', ← Bool.not_eq_true, isAhead_iff]
    exact ⟨fun c => ⟨c.2, c.1⟩, fun c => ⟨c.2, c.1⟩⟩

/-- The points behind LP of which one is acted on next, in the words of the claims. -/
theorem mem_nextBehind {s : State} {created : Option Position} {n : Half} {w : WatchedPoint} (m : w ∈ s.nextBehind created n) :
    (∃ it, s.item? n = some it ∧ s.Watches it w.offset w.position w.kind) ∧ s.Behind created n w.offset w.kind ∧
      ∀ o v, s.Behind created n o v → w.offset ≤ o := by
  unfold State.nextBehind at m
  cases e : s.item? n with
  | none => rw [e] at m; cases m
  | some it =>
    rw [e] at m
    simp only [List.mem_filter, List.all_eq_true, decide_eq_true_eq] at m
    obtain ⟨⟨hw, hb⟩, hl⟩ := m
    have hw' := mem_watchedPoints.1 hw
    have hb' := (pointBehind_iff hw'.2).1 hb
    refine ⟨⟨it, rfl, hw'.1⟩, ⟨it, w.position, e, hw'.1, hb'.1, hb'.2⟩, ?_⟩
    rintro o v ⟨it2, x, e2, wv, na, c⟩
    rw [e] at e2
    cases e2
    have mv : (⟨o, x, v⟩ : WatchedPoint) ∈ s.watchedPoints created.isSome it := mem_watchedPoints.2 ⟨wv, fun q => by
      cases created with
      | none => exact c
      | some _ => cases q⟩
    exact hl ⟨o, x, v⟩ ⟨mv, (pointBehind_iff (mem_watchedPoints.1 mv).2).2 ⟨na, c⟩⟩

theorem nextBehind_nil {s : State} {created : Option Position} {n : Half} (h : s.nextBehind created n = []) (o : Nat)
    (w : ItemPoint) : ¬s.Behind created n o w := by
  rintro ⟨it, x, e, wv, na, c⟩
  unfold State.nextBehind at h
  rw [e] at h
  dsimp only at h
  have mv : (⟨o, x, w⟩ : WatchedPoint) ∈ s.watchedPoints created.isSome it := mem_watchedPoints.2 ⟨wv, fun q => by
    cases created with
    | none => exact c
    | some _ => cases q⟩
  have mb : (⟨o, x, w⟩ : WatchedPoint) ∈ (s.watchedPoints created.isSome it).filter (pointBehind s.pos.lp created) := by
    exact List.mem_filter.2 ⟨mv, (pointBehind_iff (mem_watchedPoints.1 mv).2).2 ⟨na, c⟩⟩
  generalize (s.watchedPoints created.isSome it).filter (pointBehind s.pos.lp created) = ws at h mb
  obtain ⟨y, my, hy⟩ := exists_least WatchedPoint.offset (List.ne_nil_of_mem mb)
  have : y ∈ ws.filter (fun w => ws.all (fun v => w.offset ≤ v.offset)) := List.mem_filter.2 ⟨my, by simpa using hy⟩
  rw [h] at this
  cases this

theorem choose_eq (s : State) (k : Nat) : ∃ f, (s.choose k).2 = { s with free := f } := by
  unfold State.choose
  split
  · exact ⟨s.free, rfl⟩
  · exact ⟨s.free + 1, rfl⟩

theorem choose_none {α : Type} (s : State) {xs : List α} (h : xs[(s.choose xs.length).1]? = none) : xs = [] := by
  unfold State.choose at h
  cases xs with
  | nil => rfl
  | cons x xs =>
    exfalso
    split at h
    · simp at h
    · rw [List.getElem?_eq_none_iff] at h
      have := Nat.mod_lt (Config.freeChoice s.free) (y := (x :: xs).length) (by simp)
      omega

/-- R40, R126, R127: the points behind LP, in increasing order of offset, until none is left. -/
theorem walkPoints_walked (k : Nat) (created : Option Position) (n : Half) (s : State) (h : s.LeftAtMost n k) :
    State.PointsWalked created n s (State.walkPoints k created n s) := by
  induction k generalizing s with
  | zero =>
    refine .done s ?_
    rintro o w ⟨it, x, e, wv, _⟩
    have := h it e
    have := pointsLeft_pos wv
    omega
  | succ k ih =>
    unfold State.walkPoints
    dsimp only
    obtain ⟨f, hf⟩ := s.choose_eq (s.nextBehind created n).length
    cases ew : (s.nextBehind created n)[(s.choose (s.nextBehind created n).length).1]? with
    | none => exact .done s (nextBehind_nil (s.choose_none ew))
    | some w =>
      dsimp only
      obtain ⟨⟨it, e, wv⟩, hb, hl⟩ := mem_nextBehind (List.mem_of_getElem? ew)
      rw [hf]
      refine .next s _ f w.offset w.kind hb hl (ih _ ?_)
      have wv' : ({ s with free := f } : State).Watches it w.offset w.position w.kind := by
        obtain ⟨o, x, kd⟩ := w
        cases wv with
        | jam h length eq => exact .jam h length eq
        | decision p y h => exact .decision p y h
        | missEnd k h u => exact .missEnd k h u
        | exit head h => exact .exit head h
      have := actOnPoint_left (s := { s with free := f }) (n := n) e wv'
      intro y ey
      have a := this y ey
      have b := h it e
      have c := pointsLeft_pos wv
      omega

theorem walkPoints_whole (created : Option Position) (n : Half) (s : State) :
    State.PointsWalked created n s (State.walkPoints maxItemPoints created n s) :=
  walkPoints_walked _ _ _ _ (fun y _ => pointsLeft_le y)

/-! ### A base that moves -/

theorem Recorded.same {s : State} {h : Handle} {a : Action} (e : s.action? h = some a) : s.Recorded s h a := by
  intro i
  unfold State.action? at e
  dsimp only at e
  split at e
  · split
    · rename_i g
      subst g
      rw [← e]
    · rfl
  · cases e

theorem placeAhead_entry (s : State) (c : Fin 16) (h : Handle) (i : Fin 256) : (s.placeAhead c h).entry i = s.entry i := rfl

/-- R101: the ARMED actions whose moved fire points are ahead of LP. -/
theorem replaceActions_inTurn (hs : List Handle) (s : State) :
    State.ReplacedInTurn hs s (hs.foldl State.replaceAction s) := by
  induction hs generalizing s with
  | nil => exact .done s
  | cons h rest ih =>
    rw [List.foldl_cons]
    cases e : s.action? h with
    | none =>
      have : s.replaceAction h = s := by unfold State.replaceAction; rw [e]
      rw [this]
      exact .left s _ h rest (fun a n => by rw [names_iff, e] at n; cases n) (ih s)
    | some a =>
      have keep : (a.state = .on ∨ a.state = .waitGap ∨ ¬s.Ahead (s.firePoint a)) → s.replaceAction h = s →
          State.ReplacedInTurn (h :: rest) s (rest.foldl State.replaceAction (s.replaceAction h)) := by
        intro k r
        rw [r]
        refine .left s _ h rest (fun b n => ?_) (ih s)
        rw [names_iff, e] at n
        cases n
        exact k
      by_cases ah : s.Ahead (s.firePoint a)
      · have ah' := (isAhead_iff _ _).2 ah
        have eq : s.replaceAction h = match a.state with
            | .ahead => s.placeAhead a.channel h
            | .overdue => (s.updAction h (fun x => { x with state := .ahead })).placeAhead a.channel h
            | _ => s := by
          unfold State.replaceAction
          rw [e]
          dsimp only
          rw [ah']
          rfl
        cases st : a.state with
        | ahead =>
          rw [st] at eq
          rw [eq]
          have ea : ({ a with state := .ahead } : Action) = a := by rw [← st]
          refine .one s _ _ h rest a (names_iff.2 e) (.inl st) ah ⟨?_, placeAhead_placed _ _ _, rfl, rfl, rfl⟩ (ih _)
          rw [ea]
          exact Recorded.same e
        | overdue =>
          rw [st] at eq
          rw [eq]
          dsimp only
          have r := updAction_recorded e (fun x => { x with state := .ahead })
          have q := updAction_eq s h (fun x => { x with state := .ahead })
          generalize s.updAction h (fun x => { x with state := .ahead }) = v at r q
          have pl := placeAhead_placed v a.channel h
          have sv : ∀ d, v.schedule d = s.schedule d := by
            intro d
            rw [q]
            rfl
          refine .one s (v.placeAhead a.channel h) _ h rest a (names_iff.2 e) (.inr st) ah ⟨fun i => r i, ?_, ?_, ?_, ?_⟩ (ih _)
          · unfold State.PlacedIn at pl ⊢
            simpa only [sv] using pl
          · rw [q]; rfl
          · rw [q]; rfl
          · rw [q]; rfl
        | on => exact keep (.inl st) (by rw [eq, st])
        | waitGap => exact keep (.inr (.inl st)) (by rw [eq, st])
      · refine keep (.inr (.inr ah)) ?_
        unfold State.replaceAction
        rw [e]
        dsimp only
        rw [if_pos]
        rw [← isAhead_iff] at ah
        simpa using ah

/-- R89, R101: the ARMED AHEAD actions whose moved fire points are behind LP. -/
theorem reachAheads_inTurn (hs : List Handle) (s : State) :
    State.ReachedInTurn hs s (hs.foldl State.reachAhead s) := by
  induction hs generalizing s with
  | nil => exact .done s
  | cons h rest ih =>
    rw [List.foldl_cons]
    cases e : s.action? h with
    | none =>
      have : s.reachAhead h = s := by unfold State.reachAhead; rw [e]
      rw [this]
      exact .left s _ h rest (fun a n => by rw [names_iff, e] at n; cases n) (ih s)
    | some a =>
      have eq : s.reachAhead h = if a.state = .ahead then s.reachFire h a else s := by
        unfold State.reachAhead
        rw [e]
      by_cases o : a.state = .ahead
      · rw [eq, if_pos o]
        exact .one s _ _ h rest a (names_iff.2 e) o (reachFire_reached e) (ih _)
      · rw [eq, if_neg o]
        refine .left s _ h rest (fun b n => ?_) (ih s)
        rw [names_iff, e] at n
        cases n
        exact o

/-- R101, R126 step 1. -/
theorem replaceActions_replaced {s : State} {n : Half} {it : Item} (e : s.item? n = some it) :
    s.ActionsReplaced (s.replaceActions n) it.actions := by
  have h1 := replaceActions_inTurn it.actions s
  have h2 := reachAheads_inTurn (s.inScheduleOrder (it.actions.filter s.pointPassed)) (it.actions.foldl State.replaceAction s)
  refine ⟨_, h1, ?_⟩
  have : s.replaceActions n = (s.inScheduleOrder (it.actions.filter s.pointPassed)).foldl State.reachAhead
      (it.actions.foldl State.replaceAction s) := by
    unfold State.replaceActions
    rw [e]
  rw [this]
  have hq : s.inScheduleOrder (it.actions.filter s.pointPassed) = s.scheduledWhere it.actions (fun a => a.state = .ahead &&
      !decide (1 ≤ (s.firePoint a - s.pos.lp).toNat ∧ (s.firePoint a - s.pos.lp).toNat ≤ 2147483647)) := by
    rw [← inScheduleOrder_eq]
    congr 2
    funext h
    unfold State.pointPassed isAhead forwardDistance
    congr 1
    funext a
    congr 2
    rw [Bool.eq_iff_iff]
    simp
  rw [← hq]
  exact h2

/-! ### Counts -/

/-- R8, R9, R10: what a count has to act on, in the words of the claims. -/
theorem mem_countTasks {s : State} {d : Direction} {x : CountTask} : x ∈ s.countTasks d ↔ s.Stands d x := by
  have fires : ∀ c : Fin 16, s.firesAt c = (s.actionsOf (s.schedule c)).filter (fun a =>
      decide (a.state = .ahead ∧ a.condState ≠ .fails ∧ s.firePoint a = s.pos.lp)) := by
    intro c
    unfold State.firesAt
    congr 1
    funext a
    rw [Bool.eq_iff_iff]
    simp [and_assoc]
  have ends : ∀ c : Fin 16, s.endsAt c = (s.actionsOf (s.schedule c)).filter (fun a =>
      match a.state, a.start, a.width with
      | .on, some x, .counts n => decide (x + n.setWidth 32 = s.pos.lp)
      | _, _, _ => false) := by
    intro c
    unfold State.endsAt Action.endPoint
    congr 1
    funext a
    obtain ⟨_, _, _, _, _, _, w, _, _, _, st, x, _, _, _, _, _⟩ := a
    cases st <;> cases x <;> cases w <;> simp [plusCounts_offset]
  have take1 : ∀ {α β : Type} (f : α → β) (xs : List α) (y : β),
      y ∈ (xs.take 1).map f ↔ ∃ a, xs.head? = some a ∧ y = f a := by
    intro α β f xs y
    cases xs <;> simp
  have mot : x ∈ s.motionTask ↔ s.pos.motion = .still ∧ x = .motion := by
    unfold State.motionTask
    split <;> simp_all
  constructor
  · intro m
    cases d with
    | forward =>
      unfold State.countTasks at m
      simp only [List.mem_append] at m
      rcases m with ((m | m) | m) | m
      · obtain ⟨h, rfl⟩ := mot.1 m
        exact .motion _ h
      · obtain ⟨it, live, m⟩ := List.mem_flatMap.1 m
        unfold State.itemTasks at m
        obtain ⟨w, mw, rfl⟩ := List.mem_map.1 m
        simp only [List.mem_filter, decide_eq_true_eq] at mw
        have := (mem_watchedPoints.1 mw.1).1
        rw [mw.2] at this
        exact .point it live _ _ this
      · split at m
        · rename_i h
          cases List.mem_singleton.1 m
          unfold State.stagePointReached at h
          split at h
          · rename_i i p rest e
            have : p = s.pos.lp := by simpa using h
            subst this
            exact .stage i rest e
          · cases h
        · cases m
      · obtain ⟨c, _, m⟩ := List.mem_flatMap.1 m
        unfold State.channelTasks at m
        rw [List.mem_append, take1, take1, fires, ends] at m
        rcases m with ⟨a, ha, rfl⟩ | ⟨a, ha, rfl⟩
        · exact .fire c a ha
        · exact .windowEnd c a ha
    | backward =>
      unfold State.countTasks at m
      simp only [List.mem_append] at m
      rcases m with m | m
      · obtain ⟨h, rfl⟩ := mot.1 m
        exact .motion _ h
      · split at m
        · rename_i h
          cases List.mem_singleton.1 m
          simp only [Bool.and_eq_true, Bool.not_eq_true', decide_eq_true_eq] at h
          exact .excursion h.1 h.2
        · cases m
  · intro h
    cases h with
    | motion d h =>
      have : CountTask.motion ∈ s.motionTask := by
        unfold State.motionTask
        rw [if_pos h]
        simp
      cases d <;> simp [State.countTasks, this]
    | excursion h far =>
      unfold State.countTasks
      refine List.mem_append.2 (.inr ?_)
      rw [if_pos (by
        rw [h]
        exact decide_eq_true far)]
      exact List.mem_singleton.2 rfl
    | point it live o w h =>
      unfold State.countTasks
      simp only [List.mem_append]
      refine .inl (.inl (.inr (List.mem_flatMap.2 ⟨it, live, ?_⟩)))
      unfold State.itemTasks
      refine List.mem_map.2 ⟨⟨o, s.pos.lp, w⟩, ?_, rfl⟩
      simp only [List.mem_filter, decide_true, and_true]
      exact mem_watchedPoints.2 ⟨h, fun q => Bool.noConfusion q⟩
    | stage i rest h =>
      unfold State.countTasks State.stagePointReached
      rw [h]
      simp
    | fire c a h =>
      unfold State.countTasks
      simp only [List.mem_append]
      refine .inr (List.mem_flatMap.2 ⟨c, List.mem_finRange c, ?_⟩)
      unfold State.channelTasks
      rw [List.mem_append, take1, take1, fires]
      exact .inl ⟨a, h, rfl⟩
    | windowEnd c a h =>
      unfold State.countTasks
      simp only [List.mem_append]
      refine .inr (List.mem_flatMap.2 ⟨c, List.mem_finRange c, ?_⟩)
      unfold State.channelTasks
      rw [List.mem_append, take1, take1, ends]
      exact .inr ⟨a, h, rfl⟩

/-- R8 to R10: the things that a count acts on. -/
theorem runTasks_runs (k : Nat) (d : Direction) (s : State) : ∃ tasks, State.CountRuns d tasks s (State.runTasks k d s) := by
  induction k generalizing s with
  | zero => exact ⟨[], .done s⟩
  | succ k ih =>
    unfold State.runTasks
    dsimp only
    obtain ⟨f, hf⟩ := s.choose_eq (s.countTasks d).length
    cases ew : (s.countTasks d)[(s.choose (s.countTasks d).length).1]? with
    | none => exact ⟨[], .done s⟩
    | some w =>
      dsimp only
      rw [hf]
      obtain ⟨tasks, h⟩ := ih (({ s with free := f } : State).doTask d w)
      exact ⟨w :: tasks, .next s _ w tasks f (mem_countTasks.1 (List.mem_of_getElem? ew)) h⟩

/-- R138, R141. -/
theorem markGaps_marked (s u : State) : s.GapsMarked u (s.markGaps u) := ⟨rfl, fun c => State.channel_markGaps s u c⟩

/-- R95. -/
theorem endWindow_ended {s : State} {h : Handle} {a : Action} (e : s.action? h = some a) :
    s.WindowEnded (s.endWindow h) h a := by
  exact ⟨s.endAction h .done, endAction_whole _ e, markGaps_marked s _⟩

/-- R130, R131, R138: the miss end of an input, reached by a count. -/
theorem doTask_missEnd {s : State} {n : Half} {it : Item} (e : s.item? n = some it) (d : Direction) (k : Fin 8) :
    s.MissTaken (s.doTask d (.point n (.missEnd k))) it k :=
  ⟨_, missCheckpoint_reached e k, markGaps_marked s _⟩

/-! ### Conflict checks and creations -/

/-- R84. -/
theorem overlapping_eq (s : State) (c : Fin 16) (x : Position) (w : Width) : s.overlapping c x w = s.conflicts c x w := by
  unfold State.overlapping State.conflicts
  dsimp only
  congr 1
  funext a
  unfold windowsOverlap forwardDistance
  rw [Bool.eq_iff_iff]
  have hw : ∀ v, windowLength (s.channel c).span v = s.windowOf c v := by
    intro v
    cases v <;> rfl
  have ha : s.windowAnchor a = s.anchorOf a := by
    unfold State.windowAnchor State.anchorOf
    cases a.state <;> rfl
  rw [hw, hw, ha]
  simp

theorem posterRank_eq (s : State) (y : Poster) : s.posterRank y = s.rankOf y := by cases y <;> rfl

theorem notFiring_iff (a : Action) : (!a.firing) = true ↔ a.state ≠ .on ∧ a.state ≠ .waitGap := by
  unfold Action.firing
  cases a.state <;> simp

/-- R85, R86. -/
theorem conflictCheck_cases (s : State) (c : Fin 16) (y : Poster) (x : Position) (w : Width) :
    (∀ hs, s.conflictCheck c y x w = .accepted hs → s.Accepts c y (s.conflicts c x w) hs) ∧
      ∀ a, s.conflictCheck c y x w = .overlap a → ∀ hs, ¬s.Accepts c y (s.conflicts c x w) hs := by
  unfold State.conflictCheck
  rw [overlapping_eq]
  cases s.conflicts c x w with
  | nil => exact ⟨fun hs e => by cases e; exact .inl ⟨.inl rfl, rfl⟩, fun a e => by cases e⟩
  | cons first more =>
    have all : (first :: more).all (fun a => !a.firing && s.posterRank y < s.posterRank a.poster) = true ↔
        ∀ a ∈ first :: more, a.state ≠ .on ∧ a.state ≠ .waitGap ∧ s.rankOf y < s.rankOf a.poster := by
      simp only [List.all_eq_true, Bool.and_eq_true, notFiring_iff, decide_eq_true_eq, posterRank_eq, and_assoc]
    dsimp only
    cases pol : (s.channel c).policy with
    | refuse =>
      refine ⟨fun hs e => ConflictResult.noConfusion e, fun a _ hs h => ?_⟩
      rcases h with ⟨h | h, _⟩ | ⟨_, h, _⟩
      · cases h
      · rw [pol] at h; cases h
      · rw [pol] at h; cases h
    | merge => exact ⟨fun hs e => by cases e; exact .inl ⟨.inr pol, rfl⟩, fun a e => by cases e⟩
    | priority =>
      dsimp only
      split
      · rename_i k
        exact ⟨fun hs e => by cases e; exact .inr ⟨by simp, pol, rfl, all.1 k⟩, fun a e => by cases e⟩
      · rename_i k
        refine ⟨fun hs e => ConflictResult.noConfusion e, fun a _ hs h => ?_⟩
        rcases h with ⟨h | h, _⟩ | ⟨_, _, _, h⟩
        · cases h
        · rw [pol] at h; cases h
        · exact k (all.2 h)

/-- What every offer and ending of a creation leaves alone. -/
structure OfferKeeps (s t : State) : Prop where
  lp : t.pos = s.pos
  line : t.line = s.line
  hold : t.hold = s.hold
  current : t.recipes.current = s.recipes.current
  body : ∀ i, (t.recipe i).body = (s.recipe i).body

theorem OfferKeeps.refl (s : State) : s.OfferKeeps s := ⟨rfl, rfl, rfl, rfl, fun _ => rfl⟩

theorem OfferKeeps.trans {s t u : State} (h1 : s.OfferKeeps t) (h2 : t.OfferKeeps u) : s.OfferKeeps u :=
  ⟨h2.lp.trans h1.lp, h2.line.trans h1.line, h2.hold.trans h1.hold, h2.current.trans h1.current,
    fun i => (h2.body i).trans (h1.body i)⟩

theorem OfferKeeps.of_ends {s t : State} (e : s.Ends t) : s.OfferKeeps t :=
  ⟨e.pos, e.line, e.hold, e.current, fun i => (e.recipe i).2⟩

theorem OfferKeeps.of_bound {s t : State} {h : Handle} {a : Action} (b : s.Bound t h a) : s.OfferKeeps t := by
  rw [b.rest.1]
  exact ⟨rfl, rfl, rfl, rfl, fun _ => rfl⟩

/-- One template offered (R87). -/
theorem offerTemplate_offered (n : Half) (x : Position) (slots : PerPort Slot) (s : State) (y : TemplateTally) (t : Template)
    {rest : List Template} {u : State} {c m : Nat} {f : Bool} {k : List Handle}
    (more : State.TemplatesOffered n x slots rest (State.offerTemplate n x slots (s, y) t).1 u c m f k) :
    s.OfferKeeps (State.offerTemplate n x slots (s, y) t).1 ∧ ∃ c' m' f' k',
      State.TemplatesOffered n x slots (t :: rest) s u c' m' f' k' ∧
      (State.offerTemplate n x slots (s, y) t).2.created + c = y.created + c' ∧
      (State.offerTemplate n x slots (s, y) t).2.missing + m = y.missing + m' ∧
      ((State.offerTemplate n x slots (s, y) t).2.noSpace || f) = (y.noSpace || f') ∧
      (State.offerTemplate n x slots (s, y) t).2.skipped ++ k = y.skipped ++ k' := by
  have pt : plusCounts x t.fire.toNat = x + t.fire.setWidth 32 := plusCounts_offset _ _
  by_cases ah : isAhead s.pos.lp (plusCounts x t.fire.toNat) = true
  · have ahead : s.Ahead (x + t.fire.setWidth 32) := by rw [← pt]; exact (isAhead_iff _ _).1 ah
    by_cases en : s.actions.freeList = []
    · have r : State.offerTemplate n x slots (s, y) t = (s, { y with missing := y.missing + 1, noSpace := true }) := by
        unfold State.offerTemplate
        dsimp only
        rw [ah, en]
        rfl
      rw [r] at more ⊢
      exact ⟨.refl s, c, m + 1, true, k, .noEntry s u t rest c m f k ahead en more, rfl, by simp only; omega, by simp, rfl⟩
    · have en' : s.actions.freeList.isEmpty = false := by
        cases h : s.actions.freeList with
        | nil => exact absurd h en
        | cons => rfl
      have r : State.offerTemplate n x slots (s, y) t =
          match (if decideCondition slots t.condition = .fails then .accepted []
            else s.conflictCheck t.channel .auto (plusCounts x t.fire.toNat) t.width) with
          | .overlap _ => (s, { y with missing := y.missing + 1 })
          | .accepted displaced =>
            match (s.displace displaced).bindAction (autoRequest n t (decideCondition slots t.condition)) with
            | none => (s, { y with missing := y.missing + 1 })
            | some (h, s1) =>
              (s1, { y with
                created := y.created + 1
                skipped := if decideCondition slots t.condition = .fails then y.skipped ++ [h] else y.skipped }) := by
        unfold State.offerTemplate
        dsimp only
        rw [ah, en']
        rfl
      have acc : ∀ hs, (if decideCondition slots t.condition = .fails then ConflictResult.accepted []
            else s.conflictCheck t.channel .auto (plusCounts x t.fire.toNat) t.width) = .accepted hs →
          decideCondition slots t.condition = .fails ∧ hs = [] ∨ decideCondition slots t.condition ≠ .fails ∧
            s.Accepts t.channel .auto (s.conflicts t.channel (x + t.fire.setWidth 32) t.width) hs := by
        intro hs e
        split at e
        · rename_i q
          cases e
          exact .inl ⟨q, rfl⟩
        · rename_i q
          rw [pt] at e
          exact .inr ⟨q, (conflictCheck_cases _ _ _ _ _).1 hs e⟩
      have ref : ∀ a, (if decideCondition slots t.condition = .fails then ConflictResult.accepted []
            else s.conflictCheck t.channel .auto (plusCounts x t.fire.toNat) t.width) = .overlap a →
          decideCondition slots t.condition ≠ .fails ∧
            ∀ hs, ¬s.Accepts t.channel .auto (s.conflicts t.channel (x + t.fire.setWidth 32) t.width) hs := by
        intro a e
        split at e
        · cases e
        · rename_i q
          rw [pt] at e
          exact ⟨q, (conflictCheck_cases _ _ _ _ _).2 a e⟩
      generalize (if decideCondition slots t.condition = .fails then ConflictResult.accepted []
            else s.conflictCheck t.channel .auto (plusCounts x t.fire.toNat) t.width) = z at r acc ref
      cases z with
      | overlap a =>
        simp only at r
        rw [r] at more ⊢
        exact ⟨.refl s, c, m + 1, f, k, .refused s u t rest c m f k ahead en (ref a rfl).1 (ref a rfl).2 more, rfl,
          by simp only; omega, rfl, rfl⟩
      | accepted hs =>
        simp only at r
        have ends := Ends.endActions s .displaced hs
        have dis := endActions_inTurn .displaced hs s
        have ed : s.displace hs = hs.foldl (fun t h => t.endAction h .displaced) s := rfl
        rw [← ed] at ends dis
        generalize s.displace hs = d at r ends dis
        cases hb : d.bindAction (autoRequest n t (decideCondition slots t.condition)) with
        | none =>
          exfalso
          unfold State.bindAction at hb
          split at hb
          · rename_i nil
            have := ends.freeList
            rw [nil, List.prefix_nil] at this
            exact en this
          · cases hb
        | some q =>
          obtain ⟨h, v⟩ := q
          rw [hb] at r
          simp only at r
          rw [r] at more ⊢
          have bd := bindAction_bound hb
          refine ⟨(OfferKeeps.of_ends ends).trans (.of_bound bd), c + 1, m, f,
            (if decideCondition slots t.condition = .fails then h :: k else k),
            .bound s d v u t rest c m f k hs h ahead en (acc hs rfl) dis bd more, by simp only; omega, rfl, rfl, ?_⟩
          dsimp only
          split <;> simp
  · have r : State.offerTemplate n x slots (s, y) t = (s, { y with missing := y.missing + 1 }) := by
      unfold State.offerTemplate
      dsimp only
      rw [show isAhead s.pos.lp (plusCounts x t.fire.toNat) = false by simpa using ah]
      rfl
    rw [r] at more ⊢
    refine ⟨.refl s, c, m + 1, f, k, .behind s u t rest c m f k ?_ more, rfl, by simp only; omega, rfl, rfl⟩
    rw [← pt, ← isAhead_iff]
    exact ah

/-- The templates offered one after another (R39, R87). -/
theorem offers_offered (n : Half) (x : Position) (slots : PerPort Slot) (ts : List Template) (s : State) (y : TemplateTally) :
    s.OfferKeeps (ts.foldl (State.offerTemplate n x slots) (s, y)).1 ∧ ∃ c m f k,
      State.TemplatesOffered n x slots ts s (ts.foldl (State.offerTemplate n x slots) (s, y)).1 c m f k ∧
      (ts.foldl (State.offerTemplate n x slots) (s, y)).2 =
        ⟨y.created + c, y.missing + m, y.noSpace || f, y.skipped ++ k⟩ := by
  induction ts generalizing s y with
  | nil => exact ⟨.refl s, 0, 0, false, [], .done s, by simp⟩
  | cons t ts ih =>
    rw [List.foldl_cons]
    obtain ⟨k1, c, m, f, k, h, e⟩ := ih (State.offerTemplate n x slots (s, y) t).1 (State.offerTemplate n x slots (s, y) t).2
    obtain ⟨k2, c', m', f', k', h', e1, e2, e3, e4⟩ := offerTemplate_offered n x slots s y t h
    refine ⟨k2.trans k1, c', m', f', k', h', ?_⟩
    rw [← e1, ← e2, ← e3, ← e4]
    exact e

/-- R34: the number that a creation gives is the first free one from the next number up. -/
theorem firstFreeNumber_first (j : Nat) (n : Half) (live : List Item) :
    ∃ i, firstFreeNumber j n live = nextNumber^[i] n ∧ (∀ m, m < i → ∃ it ∈ live, it.number = nextNumber^[m] n) ∧
      (i = j ∨ ∀ it ∈ live, it.number ≠ nextNumber^[i] n) := by
  induction j generalizing n with
  | zero => exact ⟨0, rfl, fun m h => absurd h (Nat.not_lt_zero m), .inl rfl⟩
  | succ j ih =>
    unfold firstFreeNumber
    split
    · rename_i held
      obtain ⟨i, e, p, c⟩ := ih (nextNumber n)
      refine ⟨i + 1, e, fun m h => ?_, c.imp (congrArg _) id⟩
      cases m with
      | zero => simpa using held
      | succ m => exact p m (by omega)
    · rename_i free
      refine ⟨0, rfl, fun m h => absurd h (Nat.not_lt_zero m), .inr (fun it hi e => free ?_)⟩
      simp only [List.any_eq_true, decide_eq_true_eq]
      exact ⟨it, hi, e⟩

theorem nextNumber_injective (n : Half) {a b : Nat} (ha : a < 65535) (hb : b < 65535)
    (e : nextNumber^[a] n = nextNumber^[b] n) : a = b := by
  by_cases h : n = 0
  · subst h
    have one : (1 : Half) ≠ 0 := by decide
    have z : nextNumber 0 = 1 := rfl
    cases a with
    | zero =>
      cases b with
      | zero => rfl
      | succ b =>
        rw [Function.iterate_succ_apply, z] at e
        exact absurd e.symm (nextNumber_iterate one b).1
    | succ a =>
      cases b with
      | zero =>
        rw [Function.iterate_succ_apply, z] at e
        exact absurd e (nextNumber_iterate one a).1
      | succ b =>
        rw [Function.iterate_succ_apply, Function.iterate_succ_apply, z] at e
        have ea := (nextNumber_iterate one a).2
        have eb := (nextNumber_iterate one b).2
        rw [e] at ea
        simp only [show (1 : Half).toNat = 1 from rfl] at ea eb
        omega
  · have ea := (nextNumber_iterate h a).2
    have eb := (nextNumber_iterate h b).2
    have hn := n.isLt
    rw [e] at ea
    omega

theorem firstFreeNumber_free {n : Half} {live : List Item} (hl : live.length < 65534) :
    ∃ i, firstFreeNumber live.length n live = nextNumber^[i] n ∧
      (∀ it ∈ live, it.number ≠ nextNumber^[i] n) ∧ ∀ m, m < i → ∃ it ∈ live, it.number = nextNumber^[m] n := by
  obtain ⟨i, e, p, c⟩ := firstFreeNumber_first live.length n live
  refine ⟨i, e, c.elim (fun c it hi held => ?_) id, p⟩
  subst c
  have sub : (List.range (live.length + 1)).map (fun i => nextNumber^[i] n) ⊆ live.map Item.number := by
    intro x hx
    obtain ⟨i, hr, rfl⟩ := List.mem_map.1 hx
    have hr := List.mem_range.1 hr
    by_cases l : i = live.length
    · exact List.mem_map.2 ⟨it, hi, by rw [held, l]⟩
    · obtain ⟨y, hy, e⟩ := p i (by omega)
      exact List.mem_map.2 ⟨y, hy, e⟩
  have nodup : ((List.range (live.length + 1)).map (fun i => nextNumber^[i] n)).Nodup := by
    refine List.Nodup.map_on (fun a ha b hb e => ?_) List.nodup_range
    have ha := List.mem_range.1 ha
    have hb := List.mem_range.1 hb
    exact nextNumber_injective n (by omega) (by omega) e
  have := (nodup.subperm sub).length_le
  simp at this

theorem nextEntryStaged_iff (s : State) :
    s.nextEntryStaged = true ↔ ∃ i rest, s.recipes.stage = ⟨i, .nextEntry⟩ :: rest := by
  unfold State.nextEntryStaged
  split
  · rename_i i rest e
    exact ⟨fun _ => ⟨i, rest, e⟩, fun _ => rfl⟩
  · rename_i ne
    exact ⟨fun h => Bool.noConfusion h, fun ⟨i, rest, e⟩ => absurd e (ne i rest)⟩

theorem OfferKeeps.of_updItem (s : State) (n : Half) (f : Item → Item) : s.OfferKeeps (s.updItem n f) :=
  ⟨rfl, rfl, rfl, rfl, fun _ => rfl⟩

/-- R38 to R40, R69: a creation. -/
theorem createItem_created {s : State} (x : Position) (room : s.items.live.length < 64) : s.Created (s.createItem x) x := by
  obtain ⟨j, hn, free, held⟩ := firstFreeNumber_free (n := s.items.nextNumber) (live := s.items.live) (by omega)
  -- step 1
  obtain ⟨u, hu⟩ : ∃ u, u = if s.nextEntryStaged then s.applyStage else s := ⟨_, rfl⟩
  have ui : u.items = s.items := by
    rw [hu]
    split
    · exact applyStage_items s
    · rfl
  have ul : u.line = s.line := by
    rw [hu]
    split
    · unfold State.applyStage
      split <;> rfl
    · rfl
  -- steps 2 to 5
  obtain ⟨v, hv⟩ : ∃ v, v = (u.addItem x).2 := ⟨_, rfl⟩
  have en : (u.addItem x).1 = nextNumber^[j] s.items.nextNumber := by
    unfold State.addItem
    rw [ui]
    exact hn
  generalize hm : nextNumber^[j] s.items.nextNumber = m at en free
  have ev : v = { u with
      items := { u.items with
        live := u.items.live ++ [newItem m x u.recipes.current (newSlots (u.recipe u.recipes.current).body.voter)]
        nextNumber := nextNumber m, trailing := .item m }
      recipes := { u.recipes with
        store := u.recipes.store.set u.recipes.current.val
          { u.recipe u.recipes.current with refCount := (u.recipe u.recipes.current).refCount + 1 } } } := by
    rw [hv, ← en]
    rfl
  have vc : v.recipes.current = u.recipes.current := by rw [ev]
  have vb : (v.recipe v.recipes.current).body = (u.recipe u.recipes.current).body := by
    rw [vc, hv]
    unfold State.addItem
    dsimp only
    rw [recipe_updRecipe, if_pos rfl]
    rfl
  have vl : v.line = u.line := by rw [ev]
  -- step 6
  obtain ⟨ok, c, mi, f, k, offered, tally⟩ := offers_offered m x (newSlots (v.recipe v.recipes.current).body.voter)
    (v.recipe v.recipes.current).body.templates v ⟨0, 0, false, []⟩
  obtain ⟨r, hr⟩ : ∃ r, r = (v.recipe v.recipes.current).body.templates.foldl
    (State.offerTemplate m x (newSlots (v.recipe v.recipes.current).body.voter)) (v, ⟨0, 0, false, []⟩) := ⟨_, rfl⟩
  rw [← hr] at ok offered tally
  simp only [Nat.zero_add, Bool.false_or, List.nil_append] at tally
  obtain ⟨w1, hw1⟩ : ∃ w1, w1 = r.1.updItem m (fun it =>
    { it with missing := r.2.missing, flags := { it.flags with incomplete := r.2.missing ≠ 0 } }) := ⟨_, rfl⟩
  obtain ⟨y, hy⟩ : ∃ y, y = if r.2.noSpace then w1.raiseHold causeActionFull else w1 := ⟨_, rfl⟩
  have eo : v.offerTemplates m x = (y, r.2) := by
    rw [hy, hw1, hr]
    rfl
  have yk : y.recipes.current = u.recipes.current ∧ (y.recipe y.recipes.current).body = (u.recipe u.recipes.current).body := by
    have w1c : w1.recipes.current = u.recipes.current := by rw [hw1]; exact ok.current.trans vc
    have w1b : ∀ i, (w1.recipe i).body = (v.recipe i).body := by rw [hw1]; exact ok.body
    have yr : y.recipes = w1.recipes := by
      rw [hy]
      split
      · rw [raiseHold_eq]
      · rfl
    have yc : y.recipes.current = u.recipes.current := by rw [yr, w1c]
    refine ⟨yc, ?_⟩
    rw [recipe_congr yr, w1b, yc, ← vc, vb, vc]
  obtain ⟨z, hz⟩ : ∃ z, z = y.post m x (.itemEnter y.recipes.current (y.recipe y.recipes.current).body.voter r.2.created
    r.2.missing) := ⟨_, rfl⟩
  have et : s.createItem x = if s.nextEntryStaged then
      (State.walkPoints maxItemPoints (some x) m (r.2.skipped.foldl (fun t h => t.endAction h .skipped) z)).checkStageHead
      else State.walkPoints maxItemPoints (some x) m (r.2.skipped.foldl (fun t h => t.endAction h .skipped) z) := by
    unfold State.createItem
    dsimp only
    rw [← hu, en, ← hv, eo, hz]
  obtain ⟨e, he⟩ : ∃ e, e = r.2.skipped.foldl (fun t h => t.endAction h .skipped) z := ⟨_, rfl⟩
  obtain ⟨g, hg⟩ : ∃ g, g = State.walkPoints maxItemPoints (some x) m e := ⟨_, rfl⟩
  rw [← he, ← hg] at et
  refine ⟨u, v, r.1, y, z, e, g, m, j, r.2.created, r.2.missing, r.2.noSpace, r.2.skipped, ?_, ?_, ?_, free, ?_, ?_, ?_, ?_, ?_, ?_,
    ?_, ?_, ?_, ?_⟩
  · intro i rest h
    rw [hu, if_pos ((nextEntryStaged_iff s).2 ⟨i, rest, h⟩)]
    exact applyStage_applied h
  · intro h
    rw [hu, if_neg (fun q => h ((nextEntryStaged_iff s).1 q))]
  · rw [← hm]
    rfl
  · exact held
  · rw [ev]
    rfl
  · rw [vb] at offered
    rw [tally]
    exact offered
  · have hc : w1.HoldChanged y (if r.2.noSpace = true ∧ s.line.holdMask &&& causeActionFull ≠ 0 then r.1.hold ||| causeActionFull
        else r.1.hold) .raised none := by
      have l : w1.line = s.line := by rw [hw1]; exact (ok.line.trans vl).trans ul
      have h : w1.hold = r.1.hold := by rw [hw1]; rfl
      rw [hy]
      by_cases q : r.2.noSpace = true
      · rw [if_pos q]
        have := raiseHold_changed w1 causeActionFull
        rw [l, h] at this
        by_cases b : s.line.holdMask &&& causeActionFull = 0
        · rw [if_pos b] at this
          rw [if_neg (fun z => z.2 b)]
          exact this
        · rw [if_neg b] at this
          rw [if_pos ⟨q, b⟩]
          exact this
      · rw [if_neg q, if_neg (fun z => q z.1), ← h]
        exact .of_same w1 _ _
    rw [hw1] at hc
    exact hc
  · rw [hz]
    rfl
  · rw [hz, yk.2, yk.1]
    exact post_posted _ _ _ _ rfl
  · rw [he]
    exact endActions_inTurn _ _ _
  · rw [hg]
    exact walkPoints_whole _ _ _
  · intro h
    rw [et, if_pos ((nextEntryStaged_iff s).2 h)]
    exact checkStageHead_checked g
  · intro h
    rw [et, if_neg (fun q => h ((nextEntryStaged_iff s).1 q))]

/-! ### The end of a session -/

theorem compatible_iff (e : LeaseEntry) (k : LeaseKind) : e.compatible k = true ↔
    (k = .exclusive ∧ e.holders = [] ∨ k = .shared ∧ ∀ x ∈ e.holders, x.2 ≠ .exclusive) := by
  unfold LeaseEntry.compatible
  cases k with
  | exclusive => simp
  | shared =>
    simp only [List.all_eq_true, decide_eq_true_eq, reduceCtorEq, false_and, false_or, true_and]
    constructor
    · intro h x m e
      rw [h x m] at e
      cases e
    · intro h x m
      have := h x m
      cases q : x.2 with
      | exclusive => exact absurd q this
      | shared => rfl

/-- R169, R170. -/
theorem arbitrate_runs (k : Nat) (r : Fin 33) (s : State) (h : (s.lease r).waiters.length ≤ k) :
    State.Arbitrates r (State.arbitrate k r s).1 s (State.arbitrate k r s).2 := by
  induction k generalizing s with
  | zero => exact .done s (List.length_eq_zero_iff.1 (Nat.le_zero.1 h))
  | succ k ih =>
    unfold State.arbitrate
    cases e : (s.lease r).waiters with
    | nil => exact .done s e
    | cons x rest =>
      obtain ⟨q, kind⟩ := x
      dsimp only
      by_cases c : (s.lease r).compatible kind = true
      · rw [if_pos c]
        refine .grant s _ _ q kind rest e ((compatible_iff _ _).1 c) (ih _ ?_)
        have : ((s.grantHead r (q, kind) rest).lease r).waiters = rest := by
          unfold State.grantHead
          simp [lease_updLease]
        rw [this]
        rw [e] at h
        exact Nat.le_of_succ_le_succ h
      · rw [if_neg c]
        exact .stop s q kind rest e (fun g => c ((compatible_iff _ _).2 g))

theorem runArbiters_inTurn (rs : List (Fin 33)) (s : State) :
    State.ArbitratesInTurn rs s (rs.foldl (fun t r => (t.runArbiter r).2) s) := by
  induction rs generalizing s with
  | nil => exact .done s
  | cons r rest ih => exact .one s _ _ r rest _ (arbitrate_runs _ r s (Nat.le_refl _)) (ih _)

theorem reports_removed (hs : List Handle) (s : State) :
    let t := hs.foldl (fun t h => t.updAction h (fun a => { a with report := none })) s
    t = { s with actions := { s.actions with pool := t.actions.pool } } ∧
      ∀ i, t.entry i = ⟨(s.entry i).generation, (s.entry i).action.map (fun a =>
        if (s.entry i).generation ++ BitVec.ofFin (w := 8) i ∈ hs then { a with report := none } else a)⟩ := by
  induction hs generalizing s with
  | nil =>
    refine ⟨rfl, fun i => ?_⟩
    simp
  | cons h rest ih =>
    rw [List.foldl_cons]
    have q := updAction_eq s h (fun a => { a with report := none })
    have w : ∀ i, (s.updAction h (fun a => { a with report := none })).entry i =
        ⟨(s.entry i).generation, (s.entry i).action.map (fun a =>
          if (s.entry i).generation ++ BitVec.ofFin (w := 8) i = h then { a with report := none } else a)⟩ := by
      intro i
      unfold State.updAction
      dsimp only
      have mk := makeHandle_iff (s.entry i).generation i h
      split
      · rename_i g
        rw [entry_setEntry]
        split
        · rename_i e
          subst e
          have : (s.entry (handleIndex h)).generation ++ BitVec.ofFin (w := 8) (handleIndex h) = h := by
            have := (makeHandle_iff (s.entry (handleIndex h)).generation (handleIndex h) h).2 ⟨g, rfl⟩
            exact this.symm
          simp [this]
        · rename_i e
          have : ¬(s.entry i).generation ++ BitVec.ofFin (w := 8) i = h := fun c => e (mk.1 c.symm).2
          simp [this]
      · rename_i g
        have : ¬(s.entry i).generation ++ BitVec.ofFin (w := 8) i = h := fun c => by
          have := mk.1 c.symm
          apply g
          rw [← this.2, ← this.1]
        simp [this]
    generalize s.updAction h (fun a => { a with report := none }) = v at q w
    obtain ⟨h1, h2⟩ := ih v
    refine ⟨?_, fun i => ?_⟩
    · generalize rest.foldl (fun t h => t.updAction h (fun a => { a with report := none })) v = u at h1
      rw [h1, q]
    · rw [h2, w]
      congr 1
      rw [Option.map_map]
      congr 1
      funext a
      simp only [Function.comp, List.mem_cons]
      by_cases c : (s.entry i).generation ++ BitVec.ofFin (w := 8) i = h
      · simp [c]
      · simp [c]

/-- R102. -/
theorem orphanOrder_orphaned (s : State) (p : Port) (o : OrphanPolicy) : s.Orphaned (s.orphanOrder p o) p o := by
  cases o with
  | cancel => exact endActions_inTurn _ _ _
  | keep => exact reports_removed _ _

/-- R161: the order of a session's end, step by step. -/
theorem endSession_steps (s : State) (p : Port) (reason : EndReason) : ∃ u v w x : State,
    State.ArbitratesInTurn ((List.finRange 33).filter (fun r => (s.lease r).names p))
      { s.setPort p { s.port p with session := { (s.port p).session with attached := false, timer := none } } with
        leases := s.leases.map (fun e =>
          ⟨e.holders.filter (fun h => h.1 ≠ p), e.waiters.filter (fun h => h.1 ≠ p)⟩) } u ∧
    u.Orphaned v p (s.port p).session.orphan ∧
    v.HoldChanged w (v.hold &&& ~~~causePort p) .sessionEnd (some p) ∧
    (if reason = .expired then
      w.HoldChanged x (if w.line.holdMask &&& causeSessionLost = 0 then w.hold else w.hold ||| causeSessionLost)
        .raised none
    else x = w) ∧
    s.endSession p reason = x.updPort p (fun ps => ps.clearSession reason) := by
  obtain ⟨u, hu⟩ : ∃ u, u = (s.updPort p PortState.detach).endLeases p := ⟨_, rfl⟩
  obtain ⟨v, hv⟩ : ∃ v, v = u.orphanOrder p (s.port p).session.orphan := ⟨_, rfl⟩
  obtain ⟨w, hw⟩ : ∃ w, w = v.changeHold (v.hold &&& ~~~causePort p) .sessionEnd (some p) := ⟨_, rfl⟩
  obtain ⟨x, hx⟩ : ∃ x, x = if reason = .expired then w.raiseHold causeSessionLost else w := ⟨_, rfl⟩
  refine ⟨u, v, w, x, hu ▸ runArbiters_inTurn _ _, hv ▸ orphanOrder_orphaned _ _ _, hw ▸ changeHold_changed _ _ _ _, ?_, ?_⟩
  · rw [hx]
    by_cases h : reason = .expired
    · rw [if_pos h, if_pos h]
      exact raiseHold_changed _ _
    · rw [if_neg h, if_neg h]
  · rw [hx, hw, hv, hu]
    rfl

/-! ### Edges -/

/-- Nothing but a creation, an edge of the ENTRY input, a purge and a reset touches the numbering and the pending trailing
edge (R34, R41, R51). -/
def SameNumbering (s t : State) : Prop := t.items.trailing = s.items.trailing ∧ t.items.nextNumber = s.items.nextNumber

theorem SameNumbering.refl (s : State) : s.SameNumbering s := ⟨rfl, rfl⟩

theorem SameNumbering.trans {s t u : State} (h1 : s.SameNumbering t) (h2 : t.SameNumbering u) : s.SameNumbering u :=
  ⟨h2.1.trans h1.1, h2.2.trans h1.2⟩

theorem SameNumbering.of_eq {s t : State} (e : t.items = s.items) : s.SameNumbering t := ⟨by rw [e], by rw [e]⟩

theorem SameNumbering.of_ends {s t : State} (e : s.Ends t) : s.SameNumbering t := ⟨e.trailing, e.nextNumber⟩

theorem SameNumbering.of_updItem (s : State) (n : Half) (f : Item → Item) : s.SameNumbering (s.updItem n f) := ⟨rfl, rfl⟩

theorem SameNumbering.foldl {α : Type} (f : State → α → State) (h : ∀ (s : State) (x : α), s.SameNumbering (f s x)) (xs : List α)
    (s : State) : s.SameNumbering (xs.foldl f s) :=
  foldl_related SameNumbering SameNumbering.refl (fun _ _ _ => SameNumbering.trans) f h xs s

theorem SameNumbering.raiseHold (s : State) (cause : Half) : s.SameNumbering (s.raiseHold cause) := by
  rw [raiseHold_eq]
  exact .of_eq rfl

theorem SameNumbering.post (s : State) (n : Half) (x : Position) (b : NoticeBody) : s.SameNumbering (s.post n x b) :=
  .of_eq (by simp)

theorem SameNumbering.becomeFiring (s : State) (h : Handle) (a : Action) (l : Bool) : s.SameNumbering (s.becomeFiring h a l) := by
  unfold State.becomeFiring
  dsimp only
  generalize hv : State.moveToFiring _ _ _ = v
  have q : v.items = s.items := by subst hv; simp [State.moveToFiring]
  refine .of_eq (Eq.trans ?_ q)
  by_cases w : v.waitsForGap a.channel
  · rw [handOver_waits h w]; simp
  · rw [handOver_turnsOn h w, turnOn_eq]; simp

theorem SameNumbering.resolveAction (s : State) (slots : PerPort Slot) (h : Handle) :
    s.SameNumbering (s.resolveAction slots h) := by
  unfold State.resolveAction
  split
  · exact .refl s
  · split
    · exact .refl s
    · split
      · exact .refl s
      · exact SameNumbering.trans (.of_eq (by simp)) (.of_ends (.endAction _ _ _))
      · exact .of_eq (by simp)

theorem SameNumbering.closeSlots (s : State) (n : Half) (slots : PerPort Slot) (d : Bool) (src : CloseSource) :
    s.SameNumbering (s.closeSlots n slots d src) := by
  unfold State.closeSlots
  dsimp only
  have h1 : ∀ u : State, u.SameNumbering (u.resolveItem n) := by
    intro u
    unfold State.resolveItem
    split
    · exact .refl u
    · refine SameNumbering.trans (.foldl _ (fun t h => .resolveAction t _ h) _ u) (.foldl _ (fun t h => ?_) _ _)
      unfold State.fireOverdue
      split
      · split
        · exact .becomeFiring _ _ _ _
        · exact .refl t
      · exact .refl t
  have h2 : ∀ u : State, u.SameNumbering (u.postDecided n src) := by
    intro u
    unfold State.postDecided
    split
    · exact .refl u
    · dsimp only
      split
      · exact .refl u
      · exact .of_eq (by simp)
  have h3 : s.SameNumbering (if d then (s.updItem n (fun it => { it with slots := slots })).raiseHold causeLateVerdict
      else s.updItem n (fun it => { it with slots := slots })) := by
    split
    · exact SameNumbering.trans (.of_updItem s n _) (.raiseHold _ _)
    · exact .of_updItem s n _
  exact (h3.trans (h1 _)).trans (h2 _)

theorem SameNumbering.forceClose (s : State) (n : Half) : s.SameNumbering (s.forceClose n) := by
  unfold State.forceClose
  split
  · exact .refl s
  · split
    · exact .closeSlots s _ _ _ _
    · exact .refl s

theorem SameNumbering.actOnPoint (s : State) (n : Half) (w : ItemPoint) : s.SameNumbering (s.actOnPoint n w) := by
  cases w with
  | jam =>
    unfold State.actOnPoint State.jamItem
    dsimp only
    split
    · exact .refl s
    · refine SameNumbering.trans ?_ (.raiseHold _ _)
      refine SameNumbering.trans ?_ (.post _ _ _ _)
      exact .of_updItem s n _
  | decision p =>
    unfold State.actOnPoint State.closeAtDecision
    dsimp only
    split
    · exact .refl s
    · split
      · exact .closeSlots s _ _ _ _
      · exact .refl s
  | missEnd k =>
    unfold State.actOnPoint State.missCheckpoint
    dsimp only
    split
    · exact .refl s
    · generalize hv : State.post _ _ _ _ = v
      have h : s.SameNumbering v := by
        subst hv
        refine SameNumbering.trans ?_ (.post _ _ _ _)
        exact .of_updItem s n _
      refine h.trans ?_
      unfold State.onMissAction
      split
      · exact .refl _
      · exact .raiseHold _ _
      · exact .forceClose _ _
      · exact .of_ends (.takeOut _ _ _)
  | exit => exact .of_ends (.exitHead s)

theorem SameNumbering.walkPoints (k : Nat) (c : Option Position) (n : Half) (s : State) :
    s.SameNumbering (State.walkPoints k c n s) := by
  induction k generalizing s with
  | zero => exact .refl s
  | succ k ih =>
    unfold State.walkPoints
    dsimp only
    obtain ⟨f, hf⟩ := s.choose_eq (s.nextBehind c n).length
    rw [hf]
    split
    · exact .refl s
    · refine SameNumbering.trans ?_ (ih _)
      refine SameNumbering.trans ?_ (.actOnPoint _ n _)
      exact .of_eq rfl

theorem SameNumbering.offerTemplate (n : Half) (x : Position) (slots : PerPort Slot) (acc : State × TemplateTally)
    (t : Template) : acc.1.SameNumbering (State.offerTemplate n x slots acc t).1 := by
  unfold State.offerTemplate
  dsimp only
  split
  · exact .refl _
  · split
    · exact .refl _
    · split
      · exact .refl _
      · split
        · exact .refl _
        · rename_i e
          have b := (bindAction_bound e).items
          exact SameNumbering.trans (.of_ends (.endActions _ .displaced _)) ⟨by rw [b]; rfl, by rw [b]; rfl⟩

/-- R34: the numbering after a creation. -/
theorem createItem_numbering (s : State) (x : Position) :
    (s.createItem x).items.trailing = .item (firstFreeNumber s.items.live.length s.items.nextNumber s.items.live) ∧
      (s.createItem x).items.nextNumber = nextNumber (firstFreeNumber s.items.live.length s.items.nextNumber s.items.live) := by
  obtain ⟨u, hu⟩ : ∃ u, u = if s.nextEntryStaged then s.applyStage else s := ⟨_, rfl⟩
  have ui : u.items = s.items := by
    rw [hu]
    split
    · exact applyStage_items s
    · rfl
  have h1 : ∀ m : Half, (u.addItem x).2.SameNumbering ((u.addItem x).2.offerTemplates m x).1 := by
    intro m
    have f : ∀ (ts : List Template) (slots : PerPort Slot) (acc : State × TemplateTally),
        acc.1.SameNumbering (ts.foldl (State.offerTemplate m x slots) acc).1 := by
      intro ts slots
      induction ts with
      | nil => exact fun acc => .refl _
      | cons t ts ih => exact fun acc => (SameNumbering.offerTemplate m x slots acc t).trans (ih _)
    have g : ∀ (t : State) (y : TemplateTally), (u.addItem x).2.SameNumbering t → (u.addItem x).2.SameNumbering
        (if y.noSpace then (t.updItem m (fun it =>
          { it with missing := y.missing, flags := { it.flags with incomplete := y.missing ≠ 0 } })).raiseHold
            causeActionFull
          else t.updItem m (fun it =>
            { it with missing := y.missing, flags := { it.flags with incomplete := y.missing ≠ 0 } })) := by
      intro t y h
      split
      · exact SameNumbering.trans (h.trans (.of_updItem t m _)) (.raiseHold _ _)
      · exact h.trans (.of_updItem t m _)
    exact g _ _ (f _ _ ((u.addItem x).2, _))
  have h2 : ∀ t : State, t.SameNumbering t.checkStageHead := by
    intro t
    unfold State.checkStageHead
    generalize t.recipes.stage.length = k
    induction k generalizing t with
    | zero => exact .refl t
    | succ k ih =>
      unfold State.checkStage
      split
      · split
        · exact .refl t
        · exact SameNumbering.trans (.of_eq (applyStage_items t)) (ih _)
      · exact .refl t
  have h3 : (u.addItem x).2.SameNumbering (s.createItem x) := by
    unfold State.createItem
    dsimp only
    rw [← hu]
    generalize hz : State.post _ (u.addItem x).1 x _ = z
    have hz1 : (u.addItem x).2.SameNumbering z := by
      subst hz
      exact (h1 _).trans (.post _ _ _ _)
    have w := (hz1.trans (.of_ends (.endActions z .skipped ((u.addItem x).2.offerTemplates (u.addItem x).1 x).2.skipped))).trans
      (.walkPoints maxItemPoints (some x) (u.addItem x).1 _)
    split
    · exact w.trans (h2 _)
    · exact w
  have h4 : (u.addItem x).2.items.trailing = .item (firstFreeNumber s.items.live.length s.items.nextNumber s.items.live) ∧
      (u.addItem x).2.items.nextNumber =
        nextNumber (firstFreeNumber s.items.live.length s.items.nextNumber s.items.live) := by
    unfold State.addItem
    dsimp only
    rw [ui]
    exact ⟨rfl, rfl⟩
  exact ⟨h3.1.trans h4.1, h3.2.trans h4.2⟩

/-- R123: the candidates for an edge. -/
theorem candidate_iff (k : Fin 8) (i : Input) (x : Position) (it : Item) : candidateFor k i x it = true ↔ ∃ d, it.CandidateAt k i x d := by
  unfold candidateFor Item.CandidateAt
  rw [Bool.and_eq_true, unmarked_iff]
  simp only [decide_eq_true_eq]
  have hw := i.window.isLt
  have he : it.expectedAt i = it.base + i.nominal.setWidth 32 := plusCounts_offset _ _
  rw [he]
  generalize it.base + i.nominal.setWidth 32 = e
  unfold forwardDistance
  constructor
  · rintro ⟨hm, h⟩
    by_cases c : (x - e).toNat ≤ i.window.toNat
    · refine ⟨((x-e).toNat : Int), hm, by omega, by omega, ?_⟩
      apply BitVec.eq_of_toNat_eq
      simp only [BitVec.toNat_add, BitVec.ofInt_natCast, BitVec.toNat_ofNat, BitVec.toNat_sub] at *
      omega
    · refine ⟨-((e-x).toNat : Int), hm, ?_, by omega, ?_⟩
      · simp only [BitVec.toNat_sub, BitVec.toNat_ofNat] at *; omega
      · apply BitVec.eq_of_toNat_eq
        simp only [BitVec.toNat_add, BitVec.toNat_ofInt, BitVec.toNat_sub, BitVec.toNat_ofNat] at *
        have := x.isLt; have := e.isLt
        omega
  · rintro ⟨d, hm, h1, h2, rfl⟩
    refine ⟨hm, ?_⟩
    have : e - (e + BitVec.ofInt 32 d - BitVec.ofNat 32 i.window.toNat) = BitVec.ofInt 32 ((i.window.toNat : Int) - d) := by
      apply BitVec.eq_of_toNat_eq
      simp only [BitVec.toNat_add, BitVec.toNat_ofInt, BitVec.toNat_sub, BitVec.toNat_ofNat] at *
      have := e.isLt
      omega
    rw [this, BitVec.toNat_ofInt]
    omega
/-- R124. -/
theorem slip_eq {k : Fin 8} {i : Input} {x : Position} {it : Item} {d : Int} (h : it.CandidateAt k i x d) : slipOf i x (it.expectedAt i) = d := by
  obtain ⟨_, h1, h2, hx⟩ := h
  have he : it.expectedAt i = it.base + i.nominal.setWidth 32 := plusCounts_offset _ _
  rw [he]
  rw [hx]
  clear he hx
  generalize it.base + i.nominal.setWidth 32 = e
  have hw := i.window.isLt
  unfold slipOf forwardDistance
  have a : e + BitVec.ofInt 32 d - e = BitVec.ofInt 32 d := by apply BitVec.eq_of_toNat_eq; simp only [BitVec.toNat_add, BitVec.toNat_ofInt, BitVec.toNat_sub]; have := e.isLt; omega
  have b : e - (e + BitVec.ofInt 32 d) = BitVec.ofInt 32 (-d) := by apply BitVec.eq_of_toNat_eq; simp only [BitVec.toNat_add, BitVec.toNat_ofInt, BitVec.toNat_sub]; have := e.isLt; omega
  rw [a, b, BitVec.toNat_ofInt, BitVec.toNat_ofInt]
  split <;> omega
theorem blank_iff (s : State) (x : Position) : (∀ it, s.items.live.getLast? = some it → blankingPassed s.line.entryBlanking it.entry x = true) ↔ s.clearOfNewest x := by
  unfold State.clearOfNewest blankingPassed isAhead forwardDistance
  simp only [Bool.and_eq_true, decide_eq_true_eq, and_assoc]
/-- R40: no point of a new item is behind LP. -/
theorem created_notBehind {s : State} {x : Position} {n : Half} {it : Item} (e : s.item? n = some it) (hc : it.correction = 0) (hx : it.entry = x)
    (hs : s.createdClear x) (hr : (s.recipe it.recipe).body = (s.recipe s.recipes.current).body) (hsl : ∀ q y, it.slots.get q = .opened y → (s.recipe s.recipes.current).body.voter.get q = true) :
    ∀ o w, ¬ s.Behind (some x) n o w := by
  rintro o w ⟨it2, y, e2, wv, na, nx⟩
  rw [e] at e2; cases e2
  have hb : it.base = x := by unfold Item.base; rw [hc, hx]; simp
  unfold State.createdClear at hs
  simp only at hs
  rcases hs with hs | ⟨h1, h2, h3, h4⟩
  · exact nx hs
  · have key : ∀ k : Nat, k < 2^31 → (s.pos.lp - x).toNat < k → s.Ahead (x + BitVec.ofNat 32 k) := by
      intro k hk h
      unfold State.Ahead
      simp only [BitVec.toNat_sub, BitVec.toNat_add, BitVec.toNat_ofNat] at *
      have := x.isLt; have := s.pos.lp.isLt
      omega
    have key2 : ∀ k : Offset, (s.pos.lp - x).toNat < k.toNat → s.Ahead (x + k.setWidth 32) := by
      intro k h
      have := key k.toNat (by have := k.isLt; omega) h
      rwa [show BitVec.ofNat 32 k.toNat = k.setWidth 32 by apply BitVec.eq_of_toNat_eq; simp] at this
    cases wv with
    | jam h l eq =>
      rw [hr] at eq; subst eq; rw [hx] at na; exact na (key2 _ h1)
    | decision p pd h => rw [hb, hr] at na; exact na (key2 _ (h3 p (hsl p pd h)))
    | missEnd k h u =>
      rw [hb] at na
      apply na
      have := key ((s.input k).nominal.toNat + (s.input k).window.toNat) (by have := (s.input k).nominal.isLt; have := (s.input k).window.isLt; omega) (h4 k h)
      rw [BitVec.add_assoc]
      rwa [show BitVec.ofNat 32 ((s.input k).nominal.toNat + (s.input k).window.toNat) = (s.input k).nominal.setWidth 32 + (s.input k).window.setWidth 32 by apply BitVec.eq_of_toNat_eq; simp] at this
    | exit hd h => rw [hb] at na; exact na (key2 _ h2)
theorem walkPoints_nothing {s : State} {c : Option Position} {n : Half} (k : Nat) (h : ∀ o w, ¬ s.Behind c n o w) : State.walkPoints k c n s = s := by
  cases k with
  | zero => rfl
  | succ k =>
    unfold State.walkPoints
    dsimp only
    cases e : (s.nextBehind c n) with
    | nil => rfl
    | cons w ws => exact absurd (mem_nextBehind (by rw [e]; simp : w ∈ s.nextBehind c n)).2.1 (h _ _)
/-- R36 to R42: an edge of the ENTRY input. -/
theorem entryEdge_edge (s : State) (l : Bool) (x : Position) : s.EntryEdge (if l then s.entryLeading x else s.entryTrailing x) l x := by
  have acc : s.clearOfNewest x → s.entryLeading x = s.acceptEntry x := by
    intro h
    have := (blank_iff s x).2 h
    unfold State.entryLeading
    cases e : s.items.live.getLast? with
    | none => rfl
    | some it => simp only; rw [if_pos (this it e)]
  have cr : s.clearOfNewest x → s.items.live.length < 64 → s.entryLeading x = s.createItem x := by
    intro h r
    rw [acc h]; unfold State.acceptEntry; rw [if_pos r]
  refine { reEntry := ?_, full := ?_, created := ?_, creates := ?_, numbering := ?_, ignored := ?_, applied := ?_ }
  · rintro rfl newest e nc
    rw [if_pos rfl]
    unfold State.entryLeading
    rw [e]
    dsimp only
    rw [if_neg]
    · exact ⟨rfl, post_posted _ _ _ _ rfl⟩
    · intro b
      apply nc
      rw [← blank_iff]
      intro it e2; rw [e] at e2; cases e2; exact b
  · rintro rfl hc hf
    rw [if_pos rfl, acc hc]
    unfold State.acceptEntry
    rw [if_neg (Nat.not_lt.2 hf)]
    dsimp only
    refine ⟨({ s with items := { s.items with entryLost := saturatingSucc s.items.entryLost, trailing := .discard } } : State).post 0 x (.entryLost (saturatingSucc s.items.entryLost)), rfl, ?_, ?_⟩
    · exact post_posted _ _ _ _ rfl
    · exact raiseHold_changed _ causeItemFull
  · rintro rfl hc hf ns tp cc
    rw [if_pos rfl, cr hc hf]
    dsimp only
    obtain ⟨j, hn, free, held⟩ := firstFreeNumber_free (n := s.items.nextNumber) (live := s.items.live) (by omega)
    refine ⟨nextNumber^[j] s.items.nextNumber, j, rfl, free, held, ?_⟩
    generalize hm : nextNumber^[j] s.items.nextNumber = m at hn free
    have e1 : (s.addItem x).1 = m := hn
    have tp2 : ((s.addItem x).2.recipe (s.addItem x).2.recipes.current).body = (s.recipe s.recipes.current).body := by
      unfold State.addItem; simp only [updRecipe_current]; rw [recipe_updRecipe, if_pos rfl]; rfl
    have e2 : (s.addItem x).2.offerTemplates m x = ((s.addItem x).2.updItem m (fun it => { it with missing := 0, flags := { it.flags with incomplete := false } }), ⟨0,0,false,[]⟩) := by
      unfold State.offerTemplates
      dsimp only
      rw [tp2, tp]
      rfl
    have ad : (s.addItem x).2 = { s with
        items := { s.items with
          live := s.items.live ++ [newItem m x s.recipes.current (newSlots (s.recipe s.recipes.current).body.voter)]
          nextNumber := nextNumber m, trailing := .item m }
        recipes := { s.recipes with
          store := s.recipes.store.set s.recipes.current.val
            { s.recipe s.recipes.current with refCount := (s.recipe s.recipes.current).refCount + 1 } } } := by
      rw [← e1]; rfl
    have up : (s.addItem x).2.updItem m (fun it => { it with missing := 0, flags := { it.flags with incomplete := false } }) = (s.addItem x).2 := by
      rw [ad]
      unfold State.updItem State.setLive
      simp only
      congr 2
      rw [List.map_append]
      congr 1
      · conv => rhs; rw [← List.map_id s.items.live]
        apply List.map_congr_left
        intro y hy
        rw [if_neg (free y hy)]; rfl
      · simp [newItem]
    have tot : s.createItem x = (s.addItem x).2.post m x (.itemEnter s.recipes.current (s.recipe s.recipes.current).body.voter 0 0) := by
      unfold State.createItem
      rw [ns]
      simp only [Bool.false_eq_true, if_false]
      rw [e1, e2]
      simp only [List.foldl_nil]
      rw [up, tp2]
      have : (s.addItem x).2.recipes.current = s.recipes.current := rfl
      rw [this]
      apply walkPoints_nothing
      refine created_notBehind (it := newItem m x s.recipes.current (newSlots (s.recipe s.recipes.current).body.voter)) ?_ rfl rfl ?_ ?_ ?_
      · rw [item_congr (s := (s.addItem x).2) (by simp)]
        rw [ad]
        unfold State.item?
        simp only
        rw [List.find?_append]
        have : s.items.live.find? (fun it => it.number = m) = none := by
          rw [List.find?_eq_none]; simpa using free
        rw [this]
        simp [newItem]
      · have hb : ∀ b, ((((s.addItem x).2.post m x b).recipe ((s.addItem x).2.post m x b).recipes.current).body) = (s.recipe s.recipes.current).body := by
          intro b; rw [← tp2]; simp
        unfold State.createdClear at cc ⊢
        rw [hb]
        exact cc
      · rfl
      · intro q y
        have : ((((s.addItem x).2.post m x (.itemEnter s.recipes.current (s.recipe s.recipes.current).body.voter 0 0)).recipe ((s.addItem x).2.post m x (.itemEnter s.recipes.current (s.recipe s.recipes.current).body.voter 0 0)).recipes.current).body) = (s.recipe s.recipes.current).body := by
          rw [← tp2]; simp
        rw [this]
        generalize (s.recipe s.recipes.current).body.voter = v
        obtain ⟨a, b, c⟩ := v
        cases q <;> simp only [newItem, newSlots, PerPort.get] <;> intro h <;> split at h <;> simp_all
    rw [tot]
    constructor
    · rw [ad]; rfl
    · rw [ad]
      exact post_posted _ _ _ _ rfl
  · rintro rfl hc hf
    rw [if_pos rfl, cr hc hf]
    exact createItem_created x hf
  · rintro rfl hc hf
    rw [if_pos rfl, cr hc hf]
    obtain ⟨j, hn, free, _⟩ := firstFreeNumber_free (n := s.items.nextNumber) (live := s.items.live) (by omega)
    have h := createItem_numbering s x
    exact ⟨_, fun it m e => free it m (e.trans hn), h.1, h.2⟩
  · rintro rfl h
    simp only [Bool.false_eq_true, if_false]
    unfold State.entryTrailing
    cases ht : s.items.trailing with
    | item n =>
      dsimp only
      cases e : State.item? { s with items := { s.items with trailing := .nothing } } n with
      | none => rfl
      | some it =>
        dsimp only
        have hn := number_of_item e
        have e' : s.item? n = some it := e
        rw [if_neg (h it (by rw [ht, hn]) (by rw [hn]; exact e'))]
    | _ => rfl
  · rintro rfl it ht he hst
    simp only [Bool.false_eq_true, if_false]
    have eq : s.entryTrailing x = State.applyLength { s with items := { s.items with trailing := .nothing } } it x := by
      unfold State.entryTrailing
      rw [ht]
      dsimp only
      rw [show State.item? { s with items := { s.items with trailing := .nothing } } it.number = some it from he]
      simp only
      rw [if_pos hst]
    rw [eq]
    unfold State.applyLength
    have hb : State.bodyOf { s with items := { s.items with trailing := .nothing } } it = (s.recipe it.recipe).body := rfl
    rw [hb]
    dsimp only
    generalize (s.recipe it.recipe).body = body
    generalize hs0 : ({ s with items := { s.items with trailing := .nothing } } : State) = s0
    have g2 : ∀ len : BitVec 32, (s0.updItem it.number (fun y => { y with length := some len, state := .tracked })) =
       { s with items := { s.items with trailing := .nothing, live := s.items.live.map (fun y => if y.number = it.number then { y with length := some len, state := .tracked, flags := { y.flags with lengthFault := y.flags.lengthFault || false } } else y) } } := by
      intro len; subst hs0; simp only [Bool.or_false]; rfl
    have g3 : ∀ len : BitVec 32, (s0.updItem it.number (fun y => { y with length := some len, state := .tracked })).updItem it.number (fun y => { y with flags := { y.flags with lengthFault := true } }) =
       { s with items := { s.items with trailing := .nothing, live := s.items.live.map (fun y => if y.number = it.number then { y with length := some len, state := .tracked, flags := { y.flags with lengthFault := y.flags.lengthFault || true } } else y) } } := by
      intro len; subst hs0
      unfold State.updItem State.setLive
      simp only [List.map_map]
      congr 2
      apply List.map_congr_left
      intro y _
      simp only [Function.comp]
      by_cases c : y.number = it.number <;> simp [c]
    have fault : ∀ (len : BitVec 32) (lim : LengthLimit),
        ∃ u : State, u = { s with items := { s.items with trailing := .nothing, live := s.items.live.map (fun y => if y.number = it.number then { y with length := some len, state := .tracked, flags := { y.flags with lengthFault := y.flags.lengthFault || true } } else y) }, ports := u.ports } ∧
          s.Posted u .item it.number x (.lengthFault len lim body.policy) ∧
          (body.policy = .note → (if body.policy = .reject then (((s0.updItem it.number (fun y => { y with length := some len, state := .tracked })).updItem it.number (fun y => { y with flags := { y.flags with lengthFault := true } })).post it.number x (.lengthFault len lim body.policy)).forceClose it.number else (((s0.updItem it.number (fun y => { y with length := some len, state := .tracked })).updItem it.number (fun y => { y with flags := { y.flags with lengthFault := true } })).post it.number x (.lengthFault len lim body.policy))) = u) ∧
          (body.policy = .reject → ∃ y, u.item? it.number = some y ∧ u.ForceClosed (if body.policy = .reject then (((s0.updItem it.number (fun y => { y with length := some len, state := .tracked })).updItem it.number (fun y => { y with flags := { y.flags with lengthFault := true } })).post it.number x (.lengthFault len lim body.policy)).forceClose it.number else (((s0.updItem it.number (fun y => { y with length := some len, state := .tracked })).updItem it.number (fun y => { y with flags := { y.flags with lengthFault := true } })).post it.number x (.lengthFault len lim body.policy))) y) := by
      intro len lim
      have iu : (((s0.updItem it.number (fun y => { y with length := some len, state := .tracked })).updItem it.number (fun y => { y with flags := { y.flags with lengthFault := true } })).post it.number x (.lengthFault len lim body.policy)).item? it.number = some { it with length := some len, state := .tracked, flags := { it.flags with lengthFault := true } } := by
        rw [item_congr (s := ((s0.updItem it.number (fun y => { y with length := some len, state := .tracked })).updItem it.number (fun y => { y with flags := { y.flags with lengthFault := true } }))) (by simp)]
        rw [item_updItem (hf := by intro _; rfl), item_updItem (hf := by intro _; rfl)]
        have : s0.item? it.number = some it := by subst hs0; exact he
        rw [this]; simp
      obtain ⟨m, hm⟩ : ∃ m, m = ((s0.updItem it.number (fun y => { y with length := some len, state := .tracked })).updItem it.number (fun y => { y with flags := { y.flags with lengthFault := true } })) := ⟨_, rfl⟩
      have g := g3 len
      rw [← hm] at g iu ⊢
      refine ⟨m.post it.number x (.lengthFault len lim body.policy), ?_, ?_, fun h => ?_, fun h => ?_⟩
      · rw [g]; rfl
      · have := post_posted m it.number x (.lengthFault len lim body.policy) rfl
        rw [g] at this ⊢
        exact this
      · rw [if_neg (by rw [h]; simp)]
      · rw [if_pos h]
        exact ⟨_, iu, forceClose_closed iu⟩
    unfold lengthCheck
    dsimp only
    by_cases rv : 2147483648 ≤ (x - it.entry).toNat
    · rw [if_pos rv]
      refine ⟨fun a => absurd rv a, fun _ => ?_⟩
      simp only [if_pos rv]
      exact fault _ _
    · rw [if_neg rv]
      by_cases sh : body.lengthMin ≠ 0 ∧ (x - it.entry).toNat < body.lengthMin.toNat
      · rw [if_pos sh]
        refine ⟨fun _ a => absurd sh a, fun _ => ?_⟩
        simp only [if_neg rv, if_pos sh]
        exact fault _ _
      · rw [if_neg sh]
        by_cases lg : body.lengthMax ≠ 0 ∧ body.lengthMax.toNat < (x - it.entry).toNat
        · rw [if_pos lg]
          refine ⟨fun _ _ a => absurd lg a, fun _ => ?_⟩
          simp only [if_neg rv, if_neg sh]
          exact fault _ _
        · rw [if_neg lg]
          refine ⟨fun _ _ _ => ?_, fun a => (a.elim rv (fun a => a.elim sh lg)).elim⟩
          simp only [if_neg rv]
          exact g2 _
/-- R19 to R25: an edge taken. -/
theorem takeEdge_taken (s : State) (k : Fin 8) (x : Position) : s.EdgeTaken (s.takeEdge k x) k x := by
  constructor
  · intro h1 h2
    unfold State.takeEdge
    dsimp only
    rw [h1, h2]
    rfl
  · intro ns
    have eq : s.takeEdge k x = (s.updInput k (fun i => { i with accepted := !(s.input k).accepted, measurement := none })).routeEdge k (!(s.input k).accepted) x := by
      unfold State.takeEdge
      dsimp only
      rw [if_neg]
      simpa using ns
    rw [eq]
    dsimp only
    have hu : s.updInput k (fun i => { i with accepted := !(s.input k).accepted, measurement := none }) = { s with inputs := s.inputs.set k.val { s.input k with accepted := !(s.input k).accepted, measurement := none } } := rfl
    rw [← hu]
    generalize hg : s.updInput k (fun i => { i with accepted := !(s.input k).accepted, measurement := none }) = u
    have ik : (u.input k) = { s.input k with accepted := !(s.input k).accepted, measurement := none } := by
      subst hg; simp [State.input_updInput]
    generalize (!(s.input k).accepted) = l at ik hg ⊢
    have role : (u.input k).role = (s.input k).role := by rw [ik]
    have inp : (u.routeEdge k l x).inputs = u.inputs := (Runs.routeEdge (k := True) u k l x).inputs
    have ui : u.items = s.items := by subst hg; rfl
    have ulp : u.pos = s.pos := by subst hg; rfl
    refine ⟨by rw [inp, ← hg]; rfl, ?_, ?_, ?_, ?_, ?_, ?_⟩
    · intro r
      have := entryEdge_edge u l x
      unfold State.routeEdge
      rw [role, r]
      exact this
    · rintro r rfl
      unfold State.routeEdge
      rw [role, r]
      rfl
    · rintro r rfl
      unfold State.routeEdge
      rw [role, r]
      simp only [if_true]
      unfold State.postMark
      rw [ulp]
      exact ⟨by rw [← r]; subst hg; rfl, post_posted _ _ _ _ rfl⟩
    · rintro r rfl
      unfold State.routeEdge
      rw [role, r]
      rfl
    · rintro r rfl nn
      unfold State.routeEdge
      rw [role, r]
      simp only [if_true]
      unfold State.checkpointEdge
      have : u.items.live.find? (candidateFor k (u.input k) x) = none := by
        rw [List.find?_eq_none, ui]
        intro it m c
        obtain ⟨d, hd⟩ := (candidate_iff _ _ _ _).1 c
        apply nn it m d
        rw [ik] at hd; exact hd
      rw [this]
      simp only
      rw [ulp]
      exact ⟨by rw [← r]; subst hg; rfl, post_posted _ _ _ _ rfl⟩
    · rintro r rfl before it after d hl nb cand
      unfold State.routeEdge
      rw [role, r]
      simp only [if_true]
      unfold State.checkpointEdge
      have cand' : it.CandidateAt k (u.input k) x d := by rw [ik]; exact cand
      have : u.items.live.find? (candidateFor k (u.input k) x) = some it := by
        rw [ui, hl, List.find?_append]
        have : before.find? (candidateFor k (u.input k) x) = none := by
          rw [List.find?_eq_none]
          intro y m c
          obtain ⟨e, he⟩ := (candidate_iff _ _ _ _).1 c
          apply nb y m e
          rw [ik] at he; exact he
        rw [this]
        simp [(candidate_iff _ _ _ _).2 ⟨d, cand'⟩]
      rw [this]
      simp only
      unfold State.matchItem
      dsimp only
      rw [slip_eq cand']
      obtain ⟨v1, hv1⟩ : ∃ v1, v1 = u.updItem it.number (fun r => { r with correction := r.correction + d, marks := r.marks ++ [⟨k, .matched d⟩] }) := ⟨_, rfl⟩
      have e1 : v1 = { u with items := { s.items with live := s.items.live.map (fun y => if y.number = it.number then { y with correction := y.correction + d, marks := y.marks ++ [⟨k, .matched d⟩] } else y) } } := by
        rw [hv1, ← ui]; rfl
      rw [← hv1]
      refine ⟨v1.post it.number x (.checkpointMatch k (it.marks.length + 1) d (it.correction + d)), by rw [e1, ← r]; subst hg; rfl, ?_, ?_⟩
      · have := post_posted v1 it.number x (.checkpointMatch k (it.marks.length + 1) d (it.correction + d)) rfl
        rw [e1] at this ⊢
        exact this
      · have : ∃ y, v1.item? it.number = some y := by
          rw [hv1, item_updItem (hf := by intro _; rfl)]
          have : ∃ z, u.item? it.number = some z := by
            unfold State.item?
            rw [ui]
            cases q : s.items.live.find? (fun y => y.number = it.number) with
            | none => rw [List.find?_eq_none] at q; exact absurd (q it (by rw [hl]; simp)) (by simp)
            | some z => exact ⟨z, rfl⟩
          obtain ⟨z, hz⟩ := this
          rw [hz]
          exact ⟨_, rfl⟩
        obtain ⟨y, hy⟩ := this
        have hy' : (v1.post it.number x (.checkpointMatch k (it.marks.length + 1) d (it.correction + d))).item? it.number = some y := by
          rw [item_congr (s := v1) (by simp)]; exact hy
        exact ⟨y, _, hy', replaceActions_replaced hy', walkPoints_whole _ _ _⟩
end State

/-! ### Layouts, and the purge -/

/-- R198. -/
theorem slotBytes_pair (x : Slot) : slotBytes x = x.pair true := by
  rcases x with _ | (_ | ⟨_ | _, c⟩) | ⟨_ | _, c, _ | _ | _⟩ <;> rfl

/-- R46, R198; log 40. -/
theorem exitSlot_pair (x : Slot) : slotBytes (exitSlot x) = x.pair Config.exitShowsPending := by
  rcases x with _ | (_ | ⟨_ | _, c⟩) | ⟨_ | _, c, _ | _ | _⟩ <;> unfold exitSlot <;> cases Config.exitShowsPending <;> rfl

/-- R196: a distance in a 4-byte field. -/
theorem be32_offset (x : Offset) : be32 (x.setWidth 32) = 0 :: be24 x := by
  unfold be32 be24
  congr 1
  ext i hi
  simp

/-- R185, R199: a record as it is laid out byte by byte. -/
theorem noticeBytes_record (n : Notice) : noticeBytes n = n.record := by
  rcases n with ⟨serial, item, position, body⟩
  unfold noticeBytes Notice.record
  congr 1
  have : ∀ b : NoticeBody, (noticeCode b, noticeData b) = b.layout := by
    intro b
    cases b with
    | itemEnter r v c m => rcases v with ⟨_ | _, _ | _, _ | _⟩ <;> rfl
    | itemDecided slots x y src =>
      simp only [noticeCode, noticeData, noticeFields, NoticeBody.layout, slotsBytes, slotBytes_pair]
      have h : ∀ z : Slot, (z.pair true).length = 2 := by
        rintro (_ | (_ | ⟨_ | _, c⟩) | ⟨_ | _, c, _ | _ | _⟩) <;> rfl
      simp [h, natByte]
      cases x <;> cases y <;> cases src <;> rfl
    | itemExit r f slots =>
      simp only [noticeCode, noticeData, noticeFields, NoticeBody.layout, exitSlotsBytes, slotsBytes, exitSlot_pair]
      have h : ∀ z : Slot, (z.pair Config.exitShowsPending).length = 2 := by
        cases Config.exitShowsPending <;> rintro (_ | (_ | ⟨_ | _, c⟩) | ⟨_ | _, c, _ | _ | _⟩) <;> rfl
      simp [h]
      refine ⟨by cases r <;> rfl, ?_⟩
      rcases f with ⟨_ | _, _ | _, _ | _, _ | _⟩ <;> rfl
    | lengthFault l x y => cases x <;> cases y <;> rfl
    | jam l => simp only [noticeCode, noticeData, noticeFields, NoticeBody.layout, be32_offset]; rfl
    | checkpointMiss k o m c => cases o <;> rfl
    | lineMoving d => cases d <;> rfl
    | holdChanged a b o p => cases o <;> rcases p with _ | _ | _ | _ <;> rfl
    | recipeSwitched a b t l => cases t <;> rfl
    | actionEnd h t o l d w s r => cases o <;> cases l <;> cases d <;> cases w <;> cases s <;> rfl
    | leaseGranted r k h w => cases k <;> rfl
    | _ => rfl
  rw [← this body]
theorem State.removeRecord_item_other {s : State} {m n : Half} (h : m ≠ n) (r : ExitReason) :
    (s.removeRecord n r).item? m = s.item? m := by
  unfold State.removeRecord
  split
  · rfl
  · show (s.items.live.filter _).find? _ = s.items.live.find? _
    rw [List.find?_filter]
    congr 1
    funext x
    by_cases e : x.number = m <;> simp [e, h]

/-- R51 step 1, of a table whose numbers are distinct. -/
theorem State.purge_inTurn (live : List Item) (s : State) (d : (live.map Item.number).Nodup)
    (h : ∀ it ∈ live, ∃ x, s.item? it.number = some x ∧ it.Keeps x) :
    State.PurgedInTurn live s (live.foldl State.purgeItem s) := by
  induction live generalizing s with
  | nil => exact .done s
  | cons it rest ih =>
    obtain ⟨x, ex, kx⟩ := h it (by simp)
    obtain ⟨y, ey, ky⟩ := cutActions_item it.actions ex
    refine .one s _ _ _ it rest (cutActions_cut it.actions s) ((removeRecord_removed ey .purged).congr (kx.trans ky))
      (ih _ (List.nodup_cons.1 d).2 fun z m => ?_)
    obtain ⟨u, eu, ku⟩ := h z (by simp [m])
    obtain ⟨v, ev, kv⟩ := cutActions_item it.actions eu
    refine ⟨v, ?_, ku.trans kv⟩
    have ne : z.number ≠ it.number := fun e => (List.nodup_cons.1 d).1 (e ▸ List.mem_map_of_mem m)
    exact (removeRecord_item_other ne _).trans ev

end Sys2Proof.Machine
end

