-- ==== Sys2Proof/WellFormed.lean ====
section
/-! DEFINITION. Which commands and events can occur at all: the checks on the operands of an `Instr`.
A step never assumes them (an ill-formed one changes nothing, log 3). -/
namespace Sys2Proof

/-- The operand checks of each row. -/
def Instr.wellFormed : Instr → Bool
  | .commandFrameEnd _ bytes _ => Machine.commandTransaction bytes
  | .encoderFilterExpiry a b => a || b
  | .powerOnReset lowNs => 100 ≤ lowNs
  | .attach _ | .detach _ | .portReset _ | .status _ | .fetch _ | .ack _ | .lease _ | .release _
  | .configLine _ | .configInput _ | .configChannel _ | .writeRecipe _ | .eraseRecipe _ | .readRecipe _
  | .stageRecipe _ | .cancelStage _ | .postAction _ | .cancelAction _ | .clearChannel _ | .readChannel _
  | .verdict _ | .readItem _ | .listItems _ | .removeItem _ | .purgeLine _ | .setHold _ | .releaseHold _
  | .readPosition _ | .setPosition _ | .resetDevice _ | .unknownCommand _ | .read _ _
  | .encoderPhaseChange _ _ | .standstillTimerExpiry | .rawTransition _ _ | .detectFilterExpiry _
  | .windowTimerExpiry _ | .gapTimerExpiry _ | .keepaliveExpiry _ | .rstnRise | .csnFall _
  | .replySlotCopy _ => true

end Sys2Proof
end

