-- ==== Sys2Proof/Tests/Slice0.lean ====
section
/-! SUPPORT. The model's own tests: ill-formed operands, reference values of the spec, and for each obligation with
hypotheses concrete states that meet them, at the boundaries of its clauses. Expected values are the spec's (worked
tables, layouts and ranges), not the model's. -/
namespace Sys2Proof.Tests
open Sys2Proof.Machine
set_option Elab.async false

/-! ### Helpers -/

/-- The state with one frame of a command waiting at a port, sequence 7. -/
def posed (s : State) (p : Port) (name : CommandName) (params : List Byte) : State :=
  s.setPort p { s.port p with waiting := [⟨commandFrame (commandCode name) 7 params, false⟩] }

theorem posed_waits (s : State) (p : Port) (name : CommandName) (params : List Byte) (h : params.length ≤ 128) :
    (posed s p name params).FrameWaits p name 7 params [] := ⟨h, by simp [posed]⟩

/-- The reply in a port's slot after a step. -/
def reply (o : Host.Outcome State Fault Refusal) (p : Port) : Option (Result × List Byte) :=
  match o with
  | .next t => (t.port p).slot.map (fun r => (r.result, r.payload))
  | _ => none

/-- A number beyond the listed ones at the head of a block: no block of the listed form begins with it. -/
theorem head_above {m : Nat} (b : Byte) (k : Fin m) (l l' : List Byte) (h : m ≤ b.toNat) (hm : m ≤ 256) :
    b :: l ≠ natByte k.val :: l' := by
  intro e
  have : b = natByte k.val := (List.cons.inj e).1
  rw [this, natByte, BitVec.toNat_ofNat, Nat.mod_eq_of_lt (by omega)] at h
  omega

/-- A property of the next state, and `false` without one. -/
def after (o : Host.Outcome State Fault Refusal) (f : State → Bool) : Bool :=
  match o with
  | .next t => f t
  | _ => false

/-- The reply that port A gets to a command. -/
def ask (s : State) (name : CommandName) (params : List Byte) : Option (Result × List Byte) :=
  reply (exec (name.row .A) (posed s .A name params)) .A

/-- A port attached, subscribed to every class, with keepalive 1 s. -/
def attach (s : State) (p : Port) : State :=
  s.updPort p (fun ps =>
    { ps with session := { attached := true, keepalive := 100, orphan := .keep, classes := ⟨true, true, true⟩,
                           attention := true, timer := some 100, lastEnd := .none } })

/-- A lease held. -/
def grant (s : State) (p : Port) (r : Fin 33) (k : LeaseKind) : State :=
  s.updLease r (fun e => { e with holders := e.holders ++ [(p, k)] })

/-- Port A attached. -/
def open_ : State := attach State.reset .A

/-- Port A attached, with the exclusive LINE lease. -/
def lined : State := grant open_ .A 0 .exclusive

/-- A body in which port A votes, decision point 500, default HOLD. -/
def body : RecipeBody :=
  { RecipeBody.empty with voter := ⟨true, false, false⟩, decision := ⟨500, 0, 0⟩, default_ := ⟨.hold, .accept, .accept⟩ }

/-- Recipe 1 valid with that body and used by one live item. -/
def stocked (s : State) : State := s.updRecipe 1 (fun _ => ⟨true, body, 1⟩)

/-- A TRACKED item 1 at entry 0 under recipe 1. -/
def item (slot : Slot) (actions : List Handle) : Item :=
  { number := 1, state := .tracked, entry := 0, length := some 40, correction := 0, recipe := 1
    slots := ⟨slot, .absent, .absent⟩, marks := [], actions := actions, flags := ⟨false, false, false, false⟩, missing := 0 }

/-- That item alone on the line. -/
def tracking (s : State) (slot : Slot) : State :=
  { stocked s with items := { s.items with live := [item slot []], nextNumber := 2 } }

/-- An action of item 1 on channel 3 in pool entry 0, handle 0x0100, fire point 900. -/
def action (state : ActionState) (width : Width) (timer : Option Half) : Action :=
  { handle := 0x0100, item := 1, channel := 3, poster := .station .A, report := some .A, fire := 900, width := width
    condition := .always, condState := .holds, tag := 5, state := state
    start := if state = .on then some 0 else none, handOver := if state = .on then some 900 else none
    timer := timer, late := false, delayed := false, order := 0 }

/-- Item 1 with that action bound. -/
def bound (s : State) (a : Action) : State :=
  { stocked s with
    items := { s.items with live := [item (.opened none) [0x0100]], nextNumber := 2 }
    actions :=
      { pool := s.actions.pool.set 0 ⟨1, some a⟩, freeList := s.actions.freeList.drop 1
        schedules := s.actions.schedules.set 3 [0x0100], bindCount := 1 } }

/-- Its channel with the action in the ON set, or in the wait set of a running gap. -/
def firing (s : State) (a : Action) : State :=
  (bound s a).updChannel 3 (fun ch =>
    if a.state = .on then { ch with out := .on, onSet := [0x0100] }
    else { ch with out := .gap, waitSet := [0x0100], gapTimer := some 20 })

/-! ### Well-formed operands -/

theorem test_wellformed_refuses_an_empty_frame : (Instr.commandFrameEnd .A [] false).wellFormed = false := by decide
theorem test_wellformed_refuses_a_read_frame : (Instr.commandFrameEnd .A [0, 1] false).wellFormed = false := by decide
theorem test_wellformed_refuses_an_expiry_of_no_filter : (Instr.encoderFilterExpiry false false).wellFormed = false := by
  decide
theorem test_wellformed_refuses_a_filtered_pulse : (Instr.powerOnReset 99).wellFormed = false := by decide
theorem test_wellformed_accepts : (Instr.powerOnReset 100).wellFormed ∧ (Instr.encoderFilterExpiry true false).wellFormed ∧
    (Instr.commandFrameEnd .A [1] true).wellFormed := by decide

/-! ### Reference values: the CRC table of R179; no row has bits -/

theorem test_crc_reference :
    crc8 [1] = 0x07 ∧ crc8 [1, 2] = 0x1B ∧ crc8 [0x31, 0x32, 0x33, 0x34, 0x35, 0x36, 0x37, 0x38, 0x39] = 0xF4 := by
  decide +kernel
theorem test_no_row_has_bits : decodeTableWord 8 1 = none := rfl
/-- A STATUS frame: code 0x04, sequence 7, length 0, and its CRC. -/
theorem test_frame_of_status : (commandFrame 0x04 7 []).take 3 = [0x04, 0x07, 0x00] ∧
    judgeFrame ⟨commandFrame 0x04 7 [], false⟩ = .command 0x04 7 [] := by decide +kernel

/-! ### The block as a whole, frames and transactions -/

theorem witness_StepTakesTheFrontCommand :
    ({ State.reset with pending := [.rstnRise] } : State).pending = [.rstnRise] ∧ State.reset.pending = [] := ⟨rfl, rfl⟩

/-- A frame waiting at port A. -/
def raw (f : Frame) : State := State.reset.setPort .A { State.reset.port .A with waiting := [f] }

/-- Each reason at its boundary: 3 and 4 bytes, length byte 128 and 129, one byte too many; and code 0x07. -/
theorem witness_FramesThatAreNoCommandAreAnsweredOnly :
    (∀ f, ((raw f).port .A).waiting = [f]) ∧
    reply (exec (.unknownCommand .A) (raw ⟨[0x04], true⟩)) .A = some (.frameError, [0, 0, 1]) ∧
    reply (exec (.unknownCommand .A) (raw ⟨[0x04, 7, 0], false⟩)) .A = some (.frameError, [1, 0, 3]) ∧
    reply (exec (.unknownCommand .A) (raw ⟨[0x04, 7, 129, 0], false⟩)) .A = some (.frameError, [1, 0, 4]) ∧
    reply (exec (.unknownCommand .A) (raw ⟨commandFrame 0x04 7 [] ++ [0], false⟩)) .A = some (.frameError, [1, 0, 5]) ∧
    reply (exec (.unknownCommand .A) (raw ⟨[0x04, 7, 0, 0], false⟩)) .A = some (.frameError, [2, 0, 4]) ∧
    reply (exec (.unknownCommand .A) (raw ⟨commandFrame 0x07 7 [], false⟩)) .A = some (.unknownCommand, []) ∧
    ∀ name, commandCode name ≠ 0x07 :=
  ⟨fun _ => by simp [raw], by decide +kernel, by decide +kernel, by decide +kernel, by decide +kernel, by decide +kernel,
    by decide +kernel, fun name => by cases name <;> decide⟩

/-- Port A in a transaction, with or without a reply in its slot. -/
def talking (t : Transaction) (r : Option Reply) : State :=
  open_.updPort .A (fun ps => { ps with csnLow := true, transaction := t, slot := r })

/-- An OK reply of READ_POSITION, copied by the READ in progress. -/
def sample : Reply :=
  { status := 0x25, code := 0x78, seq := 7, result := .ok, payload := [], read := false, overrun := false, copied := true }

/-- A CSN fall; a frame of one whole byte, and none; a CSN fall while RSTN is low, whose frame leaves nothing. -/
theorem witness_TransactionsBeginAndFramesWaitInTurn :
    let s := talking (.receiving 0x21) none
    State.reset.rstn = true ∧ (State.reset.port .A).csnLow = false ∧ (s.port .A).transaction = .receiving 0x21 ∧
    after (exec (.csnFall .A) State.reset) (fun t => t.misoByte .A 0 = 0x20 ∧ t.misoByte .A 1 = 0) = true ∧
    after (exec (.commandFrameEnd .A [1] true) s) (fun t => (t.port .A).waiting = [⟨[1], true⟩]) = true ∧
    after (exec (.commandFrameEnd .A [] true) s) (fun t => (t.port .A).waiting = []) = true ∧
    after (exec (.csnFall .A) { State.reset with rstn := false }) (fun t => t.misoByte .A 0 = 0 ∧
      after (exec (.commandFrameEnd .A [1] false) t) (fun u => (u.port .A).waiting = [] ∧ !(u.port .A).csnLow)) = true := by
  decide +kernel

/-- An empty slot and a filled one; of the 6 bytes of the copy, a READ cut one byte short leaves the reply unread, one through
the CRC marks it. -/
theorem witness_ReadCopiesTheSlotAndMarksTheReply :
    let s := talking (.reading 0x21 sample.bytes) (some sample)
    ((talking (.receiving 0x21) none).port .A).transaction = .receiving 0x21 ∧
    (s.port .A).transaction = .reading 0x21 sample.bytes ∧ sample.bytes.length = 6 ∧
    after (exec (.replySlotCopy .A) (talking (.receiving 0x21) none)) (fun t =>
      [t.misoByte .A 0, t.misoByte .A 1, t.misoByte .A 2, t.misoByte .A 4, t.misoByte .A 5] = [0x21, 0x21, 0, 3, 0]) = true ∧
    after (exec (.replySlotCopy .A) (talking (.receiving 0x21) (some sample))) (fun t =>
      [t.misoByte .A 1, t.misoByte .A 2, t.misoByte .A 3, t.misoByte .A 7] = [0x25, 0x78, 7, 0]) = true ∧
    after (exec (.read .A 5) s) (fun t => ((t.port .A).slot.map Reply.read) = some false) = true ∧
    after (exec (.read .A 6) s) (fun t => ((t.port .A).slot.map Reply.read) = some true) = true := by
  decide +kernel

/-- A detached port; a wrong length at an attached port, at a detached one for STATUS and for an ATTACH of 4 bytes; the six
commands of the LINE lease without it. -/
theorem witness_CommonChecksRefuseInTheirOrder :
    ((posed State.reset .A .fetch []).FrameWaits .A .fetch 7 [] [] ∧ CommandName.fetch.takenDetached = false ∧
      ask State.reset .fetch [] = some (.notAttached, [])) ∧
    ((posed open_ .A .fetch [0]).FrameWaits .A .fetch 7 [0] [] ∧ CommandName.fetch.lengthAllowed 1 = false ∧
      ask open_ .fetch [0] = some (.badParameter, []) ∧ ask State.reset .status [0] = some (.badParameter, []) ∧
      ask State.reset .attach [0, 0, 0, 0] = some (.badParameter, [])) ∧
    (posed open_ .A .purgeLine []).FrameWaits .A .purgeLine 7 [] [] ∧ (Port.A, LeaseKind.exclusive) ∉ (open_.lease 0).holders ∧
    readLineBlock (lineBytes open_.line) ≠ none ∧ readStageBlock [0, 0, 0, 0, 0, 0] ≠ none ∧ readScopeBlock [1] ≠ none ∧
    [(CommandName.configLine, lineBytes open_.line), (.stageRecipe, [0, 0, 0, 0, 0, 0]), (.cancelStage, [1]),
      (.setPosition, [0, 0, 0, 0]), (.purgeLine, []), (.resetDevice, [])].map (fun x => ask open_ x.1 x.2) =
        List.replicate 6 (some (.notLeased, [])) :=
  ⟨⟨posed_waits _ _ _ _ (by decide), rfl, by decide +kernel⟩,
    ⟨posed_waits _ _ _ _ (by decide), rfl, by decide +kernel⟩,
    posed_waits _ _ _ _ (by decide), by decide +kernel⟩

/-! ### Sessions, notices and leases -/

/-- Keepalive 6,000 and 6,001, blocks of other lengths at a detached and an attached port, and each code at its last value and one beyond. -/
theorem witness_AttachOpensASession :
    (posed State.reset .A .attach [0x17, 0x70, 1, 7, 1]).FrameWaits .A .attach 7 [0x17, 0x70, 1, 7, 1] [] ∧
    ask State.reset .attach [0x17, 0x70, 1, 7, 1] = some (.ok, [0, 1, 0, 0]) ∧
    [[0x17, 0x71, 1, 7, 1], [0x17, 0x70, 2, 7, 1], [0x17, 0x70, 1, 8, 1], [0x17, 0x70, 1, 7, 2]].map
      (ask State.reset .attach) = List.replicate 4 (some (.badParameter, [])) ∧
    ask State.reset .attach [0] = some (.badParameter, []) ∧
    [[0x17, 0x71, 2, 8, 2], [], [0, 0, 0, 0, 0, 0]].map (ask open_ .attach) =
      List.replicate 3 (some (.alreadyAttached, [])) :=
  ⟨posed_waits _ _ _ _ (by decide), by decide +kernel⟩

theorem witness_SessionEndGivesBackAndClears :
    (posed lined .A .detach []).FrameWaits .A .detach 7 [] [] ∧
    (posed lined .A .portReset []).FrameWaits .A .portReset 7 [] [] ∧
    (lined.port .A).session.attached = true ∧ (lined.port .A).session.timer ≠ none ∧
    (State.reset.port .A).session.attached = false ∧
    ask lined .detach [] = some (.ok, [1, 0, 0, 0]) ∧ ask lined .portReset [] = some (.ok, [1, 3]) ∧
    ask State.reset .portReset [] = some (.ok, [0, 0]) ∧
    after (exec (.keepaliveExpiry .A) lined) (fun t => t.hold = 0x0801 ∧ (t.lease 0).holders = []) = true :=
  ⟨posed_waits _ _ _ _ (by decide), posed_waits _ _ _ _ (by decide), by decide +kernel⟩

/-- 25 bytes with an empty Stage Queue; port A of rank 1; 256 free entries; hold cause RESET; part 0x3160. -/
theorem witness_StatusReportsTheState :
    (posed State.reset .A .status []).FrameWaits .A .status 7 [] [] ∧
    ask State.reset .status [] = some (.ok,
      [0, 1, 0, 0, 0, 0, 0, 0, 0, 0, 0, 0, 0, 0, 1, 0, 0, 0, 1, 0, 0, 0, 0x31, 0x60, 1]) :=
  ⟨posed_waits _ _ _ _ (by decide), by decide +kernel⟩

/-- Port A with two notices, serials 4 and 5, and `lost` lost. -/
def noticed (lost : Half) : State :=
  open_.updPort .A (fun ps =>
    { ps with queue := [⟨4, 0, 9, .lineStill⟩, ⟨5, 0, 9, .encoderError 258⟩], nextSerial := 6, lost := lost })

theorem witness_FetchCopiesTheOldestNotices :
    (posed (noticed 0) .A .fetch []).FrameWaits .A .fetch 7 [] [] ∧
    ask (noticed 3) .fetch [] = some (.ok, [2, 0, 3, 2,
      4, 0x30, 0, 0, 0, 0, 0, 9, 0, 0, 0, 0, 0, 0, 0, 0, 5, 0x32, 0, 0, 0, 0, 0, 9, 1, 2, 0, 0, 0, 0, 0, 0]) ∧
    ask (noticed 0) .fetch [0] = some (.badParameter, []) :=
  ⟨posed_waits _ _ _ _ (by decide), by decide +kernel⟩

theorem witness_AckRemovesThroughTheSerial :
    (posed (noticed 0) .A .ack [5]).FrameWaits .A .ack 7 [5] [] ∧ ((noticed 0).port .A).queue.map Notice.serial = [4, 5] ∧
    ask (noticed 0) .ack [4] = some (.ok, [1, 1, 0, 0]) ∧ ask (noticed 3) .ack [5] = some (.ok, [2, 1, 1, 6]) ∧
    ask (noticed 3) .ack [6] = some (.badSerial, []) ∧ ask (noticed 3) .ack [] = some (.badParameter, []) :=
  ⟨posed_waits _ _ _ _ (by decide), by decide +kernel⟩

/-- Resources 0, 32 and 33, kind 2 and wait 2; a grant, a shared grant beside a shared holder, a wait, HELD and ALREADY. -/
theorem witness_LeaseGrantsQueuesOrHolds :
    let other := grant (attach open_ .B) .B 32
    (posed open_ .A .lease [0, 0, 0]).FrameWaits .A .lease 7
      [natByte (0 : Fin 33).val, leaseKindCode .exclusive, flagByte false] [] ∧
    (∀ (r : Fin 33) (l : List Byte), (33 : Byte) :: [0, 0] ≠ natByte r.val :: l) ∧
    ask open_ .lease [0, 0, 0] = some (.ok, [0, 0, 1, 0]) ∧
    ask (other .shared) .lease [32, 1, 0] = some (.ok, [32, 1, 2, 1]) ∧
    ask (other .shared) .lease [32, 0, 1] = some (.waiting, [32, 0, 1, 1, 1]) ∧
    ask (other .exclusive) .lease [32, 1, 0] = some (.held, [32, 1, 1, 0]) ∧
    ask lined .lease [0, 1, 1] = some (.already, []) ∧ 
    [[33, 0, 0], [0, 2, 0], [0, 0, 2]].map (ask open_ .lease) = List.replicate 3 (some (.badParameter, [])) :=
  ⟨posed_waits _ _ _ _ (by decide), fun r l => head_above 33 r _ l (by decide) (by decide), by decide +kernel⟩

/-- A release that grants the waiting port B, the withdrawal of a wait, and a resource that is not the caller's. -/
theorem witness_ReleaseEndsTheHoldingAndRunsTheArbiter :
    let queued := (attach lined .B).updLease 0 (fun e => { e with waiters := [(.B, .exclusive)] })
    let waiting := (grant (attach open_ .B) .B 32 .exclusive).updLease 32 (fun e => { e with waiters := [(.A, .shared)] })
    (posed queued .A .release [0]).FrameWaits .A .release 7 [natByte (0 : Fin 33).val] [] ∧
    (∀ r : Fin 33, [33] ≠ [natByte r.val]) ∧ ask open_ .release [33] = some (.badParameter, []) ∧
    ask queued .release [0] = some (.ok, [0, 0, 1]) ∧ ask waiting .release [32] = some (.ok, [32, 1, 0]) ∧
    ask open_ .release [0] = some (.notLeased, []) :=
  ⟨posed_waits _ _ _ _ (by decide), fun r => head_above 33 r _ _ (by decide) (by decide), by decide +kernel⟩

/-! ### Configurations -/

/-- The line configuration after reset, with one field changed. -/
def lineOf (f : LineConfig → LineConfig) : List Byte := lineBytes (f open_.line)

theorem line_in_range (c : LineConfig) (h : c.exitDistance ≠ 0 ∧ c.jamLength ≠ 0 ∧ c.standstillTime ≠ 0 ∧
    c.ranks = ⟨1, 2, 3⟩ ∧ c.holdMask &&& ~~~conditionCauses = 0) : c.InRange where
  exit := h.1
  jam := h.2.1
  standstill := h.2.2.1
  ranks := fun p => by rw [h.2.2.2.1]; cases p <;> decide
  distinct := by rw [h.2.2.2.1]; decide
  mask := h.2.2.2.2

/-- The line with phase A's raw level high and its accepted level low. -/
def unsettled : State := { lined with pos := { lined.pos with phaseA := ⟨true, false, some 2⟩ } }

/-- What CONFIG_LINE leaves of phase A, of the reference of A, of LP and of port A's queue on that line. -/
def refiltered (f : LineConfig → LineConfig) : Option (Phase × Bool × Position × Nat) :=
  match exec (.configLine .A) (posed unsettled .A .configLine (lineOf f)) with
  | .next t => some (t.pos.phaseA, t.pos.refA, t.pos.lp, (t.port .A).queue.length)
  | _ => none

/-- A mode code that no configuration has. -/
theorem witness_ConfigLineWritesTheWholeConfiguration_unlisted (c : LineConfig) :
    5 :: (lineBytes open_.line).drop 1 ≠ lineBytes c := by
  intro h
  have h := congrArg List.head? h
  rcases c with ⟨m⟩
  cases m <;> revert h <;> simp [lineBytes, encoderModeCode]

/-- Exit distance 0 and 1, an unlisted mode code, a distance of 25 bits, a live item, an offset equal to the exit distance, the
same configuration, a new mode, a new filter (0 and not) with a raw level away from the accepted one, and both changed. -/
theorem witness_ConfigLineWritesTheWholeConfiguration :
    let stored := fun (mode d1 d0 : Byte) =>
      [mode, 0, 0, 0, d1, d0, 0, 0, 100, 0, 0, 0x13, 0x88, 0, 200, 50, 1, 2, 3, 0x0F, 0xF0]
    (posed lined .A .configLine (lineOf id)).FrameWaits .A .configLine 7 (lineBytes open_.line) [] ∧
    open_.line.InRange ∧ (Port.A, LeaseKind.exclusive) ∈ (lined.lease 0).holders ∧ lined.items.live = [] ∧
    (∀ o b i, ¬lined.Offends 10000 o b i) ∧ (stocked lined).Offends 500 500 false 1 ∧
    (∀ c : LineConfig, c.exitDistance = 0 → ¬c.InRange) ∧
    ask lined .configLine (lineOf id) = some (.ok, stored 2 0x27 0x10) ∧
    ask lined .configLine (lineOf fun c => { c with exitDistance := 1, encoderMode := .upDown }) =
      some (.ok, stored 4 0 1) ∧
    ask lined .configLine (lineOf fun c => { c with exitDistance := 0 }) = some (.badParameter, []) ∧
    ask (tracking lined (.opened none)) .configLine (lineOf id) = some (.notEmpty, []) ∧
    ask (stocked lined) .configLine (lineOf fun c => { c with exitDistance := 500 }) =
      some (.order, [0, 1, 0xF4, 0, 1]) ∧
    ask (stocked lined) .configLine (lineOf fun c => { c with exitDistance := 501 }) =
      some (.ok, stored 2 1 0xF5) ∧
    ask lined .configLine (5 :: (lineOf id).drop 1) = some (.badParameter, []) ∧
    ask lined .configLine ((lineOf id).take 3 ++ [1] ++ (lineOf id).drop 4) = some (.badParameter, []) ∧
    refiltered (fun c => { c with encoderFilter := 3 }) = some (⟨true, false, some 3⟩, false, 0, 0) ∧
    (let filtered := { unsettled with line := { unsettled.line with encoderFilter := 2 } }
     after (exec (.configLine .A) (posed filtered .A .configLine (lineOf id))) (fun t =>
      t.pos.phaseA = ⟨true, true, none⟩ ∧ t.pos.refA = false ∧ t.pos.lp = 0 ∧ (t.port .A).queue = []) = true) ∧
    EncoderMode.upDown ≠ unsettled.line.encoderMode ∧ (3 : BitVec 3) ≠ unsettled.line.encoderFilter := by
  refine ⟨posed_waits _ _ _ _ (by decide +kernel), line_in_range _ (by decide +kernel), by decide +kernel, rfl, ?_, ?_,
    fun c z h => h.exit z, by decide +kernel⟩
  · intro o b i h
    cases h with
    | decision i p v h =>
      revert v h p
      have : ∀ i, (lined.recipe i).body.voter = .all false := by decide +kernel
      intro p v h
      rw [this i] at h
      cases p <;> cases h
    | fire i t v h =>
      have : ∀ i, (lined.recipe i).body.templates = [] := by decide +kernel
      rw [this i] at h
      cases h
    | checkpoint k h =>
      have : ∀ k, (lined.input k).role = .off := by decide +kernel
      rw [this k] at h
      cases h
  · exact .decision (s := stocked lined) (exit := 500) 1 .A (by decide +kernel) (by decide +kernel) (by decide +kernel)

/-- Port A attached with the lease of INPUT2. -/
def inputLeased : State := grant open_ .A 3 .exclusive

/-- CONFIG_INPUT of input 2: role CHECKPOINT, active HIGH, filter 0, N, W, on-miss NOTE. -/
def checkpoint (n : Offset) (w : Half) : List Byte := [2, 2, 0, 0] ++ be24 n ++ be16 w ++ [0]

/-- Input 8, role 4, level 2 and on-miss 4, the last examined only for CHECKPOINT; W 0 and 1; N + W at 9,999 and 10,000 against the exit distance of 10,000; ENTRY twice; a live item; no lease. -/
theorem witness_ConfigInputWritesTheInput :
    (posed inputLeased .A .configInput (checkpoint 9998 1)).FrameWaits .A .configInput 7
      ([natByte (2 : Fin 8).val, Role.code .checkpoint, ActiveLevel.code .high, 0] ++ be24 9998 ++ be16 1 ++
        [onMissCode .note]) [] ∧
    (inputLeased.input 2).measurement = none ∧ (Port.A, LeaseKind.exclusive) ∈ (inputLeased.lease 3).holders ∧
    (ask inputLeased .configInput (checkpoint 9998 1)).map Prod.fst = some .ok ∧
    ask inputLeased .configInput (checkpoint 9998 2) = some (.order, []) ∧
    (∀ (k : Fin 8) (l : List Byte), (8 : Byte) :: (checkpoint 9998 1).drop 1 ≠ natByte k.val :: l) ∧
    [checkpoint 9998 0, 8 :: (checkpoint 9998 1).drop 1, [2, 4, 0, 0, 0, 0, 1, 0, 1, 0], [2, 2, 2, 0, 0, 0, 1, 0, 1, 0],
        [2, 2, 0, 0, 0, 0, 1, 0, 1, 4]].map (ask inputLeased .configInput) = List.replicate 5 (some (.badParameter, [])) ∧
    (ask inputLeased .configInput [2, 3, 0, 0, 0, 0, 0, 0, 0, 4]).map Prod.fst = some .ok ∧
    ask open_ .configInput (checkpoint 9998 1) = some (.notLeased, []) ∧
    ask (tracking inputLeased (.opened none)) .configInput (checkpoint 9998 1) = some (.notEmpty, []) ∧
    ask (inputLeased.updInput 0 (fun i => { i with role := .entry })) .configInput [2, 1, 0, 0, 0, 0, 0, 0, 0, 0] =
      some (.entryTaken, []) :=
  ⟨posed_waits _ _ _ _ (by decide), by decide +kernel, by decide +kernel, by decide +kernel, by decide +kernel,
    fun k l => head_above 8 k _ l (by decide) (by decide), by decide +kernel⟩

/-- Input 2 as a MARK of filter 4 that measures an edge captured at 990, under its lease. -/
def measuring : State := inputLeased.updInput 2 (fun i => { i with role := .mark, filter := 4, measurement := some ⟨990, 4⟩ })

/-- Input 2 after a CONFIG_INPUT of role r, level l and filter f on it, and how many notices port A then has. -/
def reconfigured (s : State) (r l f : Byte) : Option (Input × Nat) :=
  match exec (.configInput .A) (posed s .A .configInput [2, r, l, f, 0, 0, 0, 0, 0, 0]) with
  | .next t => some (t.input 2, (t.port .A).queue.length)
  | _ => none

/-- A measurement restarted at filter 9 and taken at filter 0; a load under the other active level, with the pin low, and with
it high under return suppression; a pin found at the old
active level, where filter 4 makes its transition no edge and filter 0 does, and where it stood there before; a raw
transition waiting behind the command, where the pin of a load is an open choice; and OFF. -/
theorem witness_ConfigInputWritesTheInput_running :
    (measuring.input 2).measurement = some ⟨990, 4⟩ ∧
    (reconfigured measuring 3 0 9).map (fun x => x.1.measurement) = some (some ⟨990, 9⟩) ∧
    (reconfigured measuring 3 0 0).map (fun x => (x.1.accepted, x.1.measurement, x.2)) = some (true, none, 1) ∧
    (reconfigured measuring 3 1 4).map (fun x => (x.1.accepted, x.1.suppress, x.1.measurement)) = some (true, true, none) ∧
    (reconfigured (measuring.updInput 2 (fun i => { i with pin := true, accepted := true, measurement := none, suppress := true }))
      3 1 4).map (fun x => (x.1.accepted, x.1.suppress)) = some (false, false) ∧
    ((measuring.input 2).leadingMeets false, (measuring.input 2).leadingMeets true,
      ((measuring.updInput 2 (fun i => { i with filter := 0, measurement := none })).input 2).leadingMeets true,
      ((measuring.updInput 2 (fun i => { i with pin := true })).input 2).leadingMeets true) = (false, false, true, true) ∧
    Instr.rawTransition 2 true ∈ ({ measuring with pending := [.rawTransition 2 true] } : State).pending ∧
    (reconfigured measuring 0 0 4).map (fun x => (x.1.accepted, x.1.suppress, x.1.measurement)) =
      some (false, false, none) := by
  decide +kernel

/-- Port A attached with the lease of CHANNEL3. -/
def channelLeased (s : State) : State := grant s .A 12 .exclusive

/-- Span 0 and 1, channel 16, polarity 2, policy 3; one FIRING action; no lease. -/
theorem witness_ConfigChannelWritesTheChannel :
    (posed (channelLeased open_) .A .configChannel [3, 1, 0, 9, 2, 0, 1]).FrameWaits .A .configChannel 7
      ([natByte (3 : Fin 16).val, Polarity.code .activeLow] ++ be16 9 ++ [policyCode .priority] ++ be16 1) [] ∧
    (∀ (c : Fin 16) (l : List Byte), (16 : Byte) :: [1, 0, 9, 2, 0, 1] ≠ natByte c.val :: l) ∧
    ask (channelLeased open_) .configChannel [3, 1, 0, 9, 2, 0, 1] = some (.ok, [3, 0, 0, 0, 0, 0]) ∧
    [[3, 1, 0, 9, 2, 0, 0], [16, 1, 0, 9, 2, 0, 1], [3, 2, 0, 9, 2, 0, 1], [3, 1, 0, 9, 3, 0, 1]].map
      (ask (channelLeased open_) .configChannel) = List.replicate 4 (some (.badParameter, [])) ∧
    ask open_ .configChannel [3, 1, 0, 9, 2, 0, 1] = some (.notLeased, []) ∧
    ask (channelLeased (firing open_ (action .on .latch none))) .configChannel [3, 1, 0, 9, 2, 0, 1] =
      some (.busy, [0, 1]) :=
  ⟨posed_waits _ _ _ _ (by decide), fun c l => head_above 16 c _ l (by decide) (by decide), by decide +kernel⟩

/-! ### The hold cause set, the position and the resets -/

theorem witness_SetHoldAddsTheCallersCause :
    (posed open_ .A .setHold []).FrameWaits .A .setHold 7 [] [] ∧ ask open_ .setHold [] = some (.ok, [0, 3]) :=
  ⟨posed_waits _ _ _ _ (by decide), by decide +kernel⟩

/-- Bit 11, the last assigned, and bit 12; the caller's own cause and another without the LINE lease. -/
theorem witness_ReleaseHoldRemovesTheNamedCauses :
    (posed lined .A .releaseHold [8, 1]).FrameWaits .A .releaseHold 7 (be16 0x0801) [] ∧
    ask lined .releaseHold [8, 1] = some (.ok, [0, 1, 0, 0, 0, 1]) ∧
    ask lined .releaseHold [0x10, 0] = some (.badParameter, []) ∧ ask open_ .releaseHold [0, 2] = some (.ok, [0, 1, 0, 1, 0, 0]) ∧
    ask open_ .releaseHold [0, 4] = some (.notLeased, []) ∧ ask lined .releaseHold [0] = some (.badParameter, []) :=
  ⟨posed_waits _ _ _ _ (by decide), by decide +kernel⟩

theorem witness_ReadPositionReports :
    (posed open_ .A .readPosition []).FrameWaits .A .readPosition 7 [] [] ∧
    ask { open_ with pos := { open_.pos with lp := 258, hwp := 259, motion := .moving, excursion := true, errorCount := 7 } }
      .readPosition [] = some (.ok, [0, 0, 1, 2, 0, 0, 1, 3, 1, 1, 0, 7]) ∧
    ask open_ .readPosition [0] = some (.badParameter, []) :=
  ⟨posed_waits _ _ _ _ (by decide), by decide +kernel⟩

theorem witness_SetPositionMovesTheScale :
    (posed lined .A .setPosition [0, 0, 1, 0]).FrameWaits .A .setPosition 7 (be32 256) [] ∧
    ask lined .setPosition [0, 0, 1, 0] = some (.ok, [0, 0, 0, 0, 0, 0, 1, 0]) ∧
    ask open_ .setPosition [0, 0, 1, 0] = some (.notLeased, []) ∧
    ask { lined with pos := { lined.pos with motion := .moving } } .setPosition [0, 0, 1, 0] = some (.notStill, []) ∧
    ask (tracking lined (.opened none)) .setPosition [0, 0, 1, 0] = some (.notEmpty, []) ∧
    ask { lined with recipes := { lined.recipes with stage := [⟨0, .atPosition 5⟩] } } .setPosition [0, 0, 1, 0] =
      some (.notEmpty, []) :=
  ⟨posed_waits _ _ _ _ (by decide), by decide +kernel⟩

/-- A frame that waits behind the command on its own port is discarded. -/
theorem witness_ResetDeviceResetsEveryBlock :
    let behind := fun (s : State) => s.updPort .A (fun ps => { ps with waiting := ps.waiting ++ [⟨[1], true⟩] })
    (posed lined .A .resetDevice []).FrameWaits .A .resetDevice 7 [] [] ∧ (lined.port .A).session.attached = true ∧
    (Port.A, LeaseKind.exclusive) ∈ (lined.lease 0).holders ∧
    after (exec (.resetDevice .A) (behind (posed lined .A .resetDevice []))) (fun t => (t.port .A).waiting = []) = true ∧
    after (exec (.resetDevice .A) (posed (tracking lined (.opened none)) .A .resetDevice [])) (fun t =>
      t.items.live = [] ∧ (t.port .A).session.lastEnd = .deviceReset ∧ (t.recipe 1).valid) = true :=
  ⟨posed_waits _ _ _ _ (by decide), by decide +kernel⟩

/-- 99 ns is filtered out, 1,000 ns resets; the line configuration tells the one from the other. -/
theorem witness_PowerOnResetLeavesEveryBlockReset :
    let s := { lined with line := { lined.line with invert := true } }
    after (exec (.powerOnReset 99) s) (fun t => t.line.invert ∧ t.rstn) = true ∧
    after (exec (.powerOnReset 1000) s) (fun t => !t.line.invert ∧ !t.rstn) = true := by decide +kernel

theorem witness_RstnRiseLoadsTheEncoder :
    (lined.powerOn).rstn = false ∧ State.reset.pending = [] ∧ State.reset.free = 0 ∧
    State.reset.pos.phaseA.raw = false ∧ State.reset.pos.phaseB.raw = false ∧ (∀ k, (State.reset.input k).pin = false) ∧
    ∀ p, (State.reset.port p).csnLow = false :=
  ⟨rfl, rfl, rfl, rfl, rfl, by decide +kernel, fun p => by cases p <;> rfl⟩

/-! ### Recipes and the Stage Queue -/

/-- Port A attached with the lease of RECIPE2. -/
def recipeLeased : State := grant open_ .A 27 .exclusive

/-- A body with port A's decision point at `d` and one template on channel 3 that fires at `fire` when `q` accepts. -/
def decided (d fire : Offset) (q : Port) : RecipeBody :=
  { RecipeBody.empty with
    voter := ⟨true, false, false⟩, decision := ⟨d, 0, 0⟩
    templates := [{ channel := 3, fire := fire, width := .time 7, condition := .ifAccept q, report := none, tag := 5 }] }

theorem decided_stored (d fire : Offset) (q : Port) : (decided d fire q).Stored := by
  intro p h
  cases p
  · cases h
  · exact ⟨rfl, rfl⟩
  · exact ⟨rfl, rfl⟩

/-- Index 8; limits out of order; fields to be ignored that are not zero; no lease; in use; a fire offset at the exit distance; a port that does not vote; a fire offset equal to
the decision offset; and the body taken. -/
theorem witness_WriteRecipeChecksAndStoresTheBody :
    let b := decided 500 501 .A
    let latch := { b with templates := b.templates.map (fun t => { t with width := .latch }) }
    let careless := latch.carried 2 ⟨(0, 0), (7, 9), (0, 0)⟩ [(0, 5)]
    (posed recipeLeased .A .writeRecipe (b.block 2 [0])).FrameWaits .A .writeRecipe 7 (b.block 2 [0]) [] ∧ b.Stored ∧
    b.InRange ∧ (∀ (i : Fin 8) (l : List Byte), (8 : Byte) :: (b.block 2 [0]).drop 1 ≠ natByte i.val :: l) ∧ (Port.A, LeaseKind.exclusive) ∈ (recipeLeased.lease 27).holders ∧
    ask recipeLeased .writeRecipe (b.block 2 [0]) = some (.ok, [2, 1, 0]) ∧
    ask recipeLeased .writeRecipe ({ b with lengthMin := 2, lengthMax := 1 }.block 2 [0]) = some (.badParameter, []) ∧
    ask recipeLeased .writeRecipe (8 :: (b.block 2 [0]).drop 1) = some (.badParameter, []) ∧
    after (exec (.writeRecipe .A) (posed recipeLeased .A .writeRecipe careless)) (fun t => (t.recipe 2).body = latch) = true ∧
    ask open_ .writeRecipe (b.block 2 [0]) = some (.notLeased, []) ∧
    ask (recipeLeased.updRecipe 2 (fun r => { r with refCount := 1 })) .writeRecipe (b.block 2 [0]) = some (.inUse, []) ∧
    ask recipeLeased .writeRecipe ((decided 500 10000 .A).block 2 [0]) = some (.badParameter, []) ∧
    (ask recipeLeased .writeRecipe ((decided 500 9999 .A).block 2 [0])).map Prod.fst = some .ok ∧
    ask recipeLeased .writeRecipe ((decided 500 501 .B).block 2 [0]) = some (.notVoter, []) ∧
    ask recipeLeased .writeRecipe ((decided 500 500 .A).block 2 [0]) = some (.order, []) := by
  refine ⟨posed_waits _ _ _ _ (by decide), decided_stored _ _ _, ⟨?_, by decide⟩,
    fun i l => head_above 8 i _ l (by decide) (by decide), by decide +kernel⟩
  decide

/-- Recipe 0 and index 8 refused; no lease; current; erased. -/
theorem witness_EraseRecipeLeavesTheEmptyBody :
    (posed recipeLeased .A .eraseRecipe [2]).FrameWaits .A .eraseRecipe 7 [2] [] ∧
    [[0], [8]].map (ask recipeLeased .eraseRecipe) = [some (.badParameter, []), some (.badParameter, [])] ∧
    ask recipeLeased .eraseRecipe [7] = some (.notLeased, []) ∧ ask recipeLeased .eraseRecipe [2] = some (.ok, [2, 0]) ∧
    ask { recipeLeased with recipes := { recipeLeased.recipes with current := 2 } } .eraseRecipe [2] = some (.inUse, []) :=
  ⟨posed_waits _ _ _ _ (by decide), by decide +kernel⟩

theorem witness_ReadRecipeReturnsTheWrittenLayout :
    (posed open_ .A .readRecipe [0]).FrameWaits .A .readRecipe 7 [natByte (0 : Fin 8).val] [] ∧
    (∀ i : Fin 8, [8] ≠ [natByte i.val]) ∧ ask open_ .readRecipe [8] = some (.badParameter, []) ∧
    ask open_ .readRecipe [0] = some (.ok, [1, 0, 1, 0] ++ List.replicate 22 0) :=
  ⟨posed_waits _ _ _ _ (by decide), fun i => head_above 8 i _ _ (by decide) (by decide), by decide +kernel⟩

/-- The point at LP, 1 and 2^31 − 1 ahead of it, and 2^31 ahead; no lease; an invalid recipe; a full queue. -/
theorem witness_StageRecipeJoinsTheTail :
    let full := { lined with recipes := { lined.recipes with stage := [⟨0, .nextEntry⟩, ⟨0, .nextEntry⟩] } }
    (posed lined .A .stageRecipe [0, 1, 0, 0, 0, 1]).FrameWaits .A .stageRecipe 7
      (natByte (0 : Fin 8).val :: (if true then 1 else 0) :: be32 1) [] ∧
    (∀ (i : Fin 8) (l : List Byte), (8 : Byte) :: [0, 0, 0, 0, 0] ≠ natByte i.val :: l) ∧
    [[8, 0, 0, 0, 0, 0], [0, 2, 0, 0, 0, 0]].map (ask lined .stageRecipe) = List.replicate 2 (some (.badParameter, [])) ∧
    [[0, 1, 0, 0, 0, 0], [0, 1, 0, 0, 0, 1], [0, 1, 0x7F, 0xFF, 0xFF, 0xFF], [0, 1, 0x80, 0, 0, 0], [0, 0, 0, 0, 0, 0],
        [1, 0, 0, 0, 0, 0]].map (ask lined .stageRecipe) =
      [some (.past, []), some (.ok, [1, 1]), some (.ok, [1, 1]), some (.past, []), some (.ok, [1, 1]),
        some (.invalidRecipe, [])] ∧
    ask open_ .stageRecipe [0, 0, 0, 0, 0, 0] = some (.notLeased, []) ∧
    ask full .stageRecipe [0, 0, 0, 0, 0, 0] = some (.stageFull, []) :=
  ⟨posed_waits _ _ _ _ (by decide), fun i l => head_above 8 i _ l (by decide) (by decide), by decide +kernel⟩

theorem witness_CancelStageRemovesNewestOrAll :
    let full := fun s : State => { s with recipes := { s.recipes with stage := [⟨0, .nextEntry⟩, ⟨0, .atPosition 5⟩] } }
    (posed (full lined) .A .cancelStage [0]).FrameWaits .A .cancelStage 7 [if false then 1 else 0] [] ∧
    ask (full lined) .cancelStage [0] = some (.ok, [1, 1, 0, 1]) ∧
    after (exec (.cancelStage .A) (posed (full lined) .A .cancelStage [1])) (fun t => t.recipes.stage = []) = true ∧
    ask lined .cancelStage [1] = some (.notStaged, []) ∧ ask (full open_) .cancelStage [1] = some (.notLeased, []) ∧
    ask (full lined) .cancelStage [2] = some (.badParameter, []) :=
  ⟨posed_waits _ _ _ _ (by decide), by decide +kernel⟩

/-! ### Actions and output channels -/

/-- Port A attached with the lease of CHANNEL3 and item 1 on the line. -/
def posting : State := tracking (channelLeased open_) (.opened none)

/-- A POST_ACTION block for channel 3 with tag 5. -/
def post (n : Half) (fire : Offset) (w : Width) (x : Condition) : List Byte := postBlock n 3 fire w 0 x 0 5

/-- Each check at its boundary: channel 16, ranges, lease, item, exit distance 10,000, fire point at LP and one ahead, voter, decision
point 500, 16 actions, no free entry. -/
theorem witness_PostActionChecksInTheirOrder :
    let beyond := be16 1 ++ 16 :: (post 1 900 .latch .always).drop 3
    (posed posting .A .postAction (post 1 900 .latch .always)).FrameWaits .A .postAction 7 (post 1 900 .latch .always) [] ∧
    (posting.item? 1).isSome ∧ (∀ n c fire w v x q tag, beyond ≠ postBlock n c fire w v x q tag) ∧
    ask posting .postAction beyond = some (.badParameter, []) ∧
    [post 0 900 .latch .always, post 1 900 (.counts 0) .always, post 1 900 (.time 0) .always].map (ask posting .postAction) =
      List.replicate 3 (some (.badParameter, [])) ∧
    ask (tracking open_ (.opened none)) .postAction (post 1 900 .latch .always) = some (.notLeased, []) ∧
    ask (grant (tracking (attach open_ .B) (.opened none)) .B 12 .exclusive) .postAction (post 1 900 .latch .always) =
      some (.leasedElsewhere, []) ∧
    ask posting .postAction (post 2 900 .latch .always) = some (.noItem, []) ∧
    ask posting .postAction (post 1 10000 .latch .always) = some (.badParameter, []) ∧
    (ask posting .postAction (post 1 9999 .latch .always)).map Prod.fst = some .ok ∧
    ask posting .postAction (post 1 0 .latch .always) = some (.past, []) ∧
    (ask posting .postAction (post 1 1 .latch .always)).map Prod.fst = some .ok ∧
    ask posting .postAction (post 1 900 .latch (.ifAccept .B)) = some (.notVoter, []) ∧
    ask posting .postAction (post 1 500 .latch .ifAnyReject) = some (.order, []) ∧
    (ask posting .postAction (post 1 501 .latch .ifAnyReject)).map Prod.fst = some .ok ∧
    ask (posting.updItem 1 (fun it => { it with actions := List.replicate 16 0x0101 })) .postAction
      (post 1 900 .latch .always) = some (.itemLimit, []) ∧
    ask { posting with actions := { posting.actions with freeList := [] } } .postAction (post 1 900 .latch .always) =
      some (.noSpace, []) ∧
    ask (posting.updItem 1 (fun it => { it with state := .leaving })) .postAction (post 1 900 .latch .always) =
      some (.noItem, []) := by
  refine ⟨posed_waits _ _ _ _ (by decide), by decide +kernel, fun n c fire w v x q tag h => ?_, ?_⟩
  · exact head_above 16 c _ _ (by decide) (by decide) (congrArg (List.drop 2) h)
  and_intros <;> decide +kernel

/-- The hypotheses for a post of a LATCH at offset 900. -/
theorem post_passes : posting.PostPasses (item (.opened none) []) 900 .always where
  near := by decide +kernel
  ahead := by unfold State.Ahead; decide +kernel
  voter := fun q h => by cases h
  order := fun q h => h.elim
  limit := by decide

/-- No conflict; touching and overlapping windows of COUNTS 100 at 900; MERGE; PRIORITY against a lower rank and against
AUTO; a condition that is FALSE at posting, whose reply is placed before its SKIPPED is queued. -/
theorem witness_PostActionBindsTheAction :
    let held := channelLeased (bound (attach open_ .B) { action .ahead (.counts 100) none with poster := .station .B })
    let under := fun (p : Policy) (s : State) => s.updChannel 3 (fun ch => { ch with policy := p })
    (posed posting .A .postAction (post 1 900 .latch .always)).FrameWaits .A .postAction 7 (postBlock 1 3 900 .latch 0 .always 0 5) [] ∧
    (∃ k, (Port.A, k) ∈ (posting.lease 12).holders) ∧ posting.item? 1 = some (item (.opened none) []) ∧
    posting.PostPasses (item (.opened none) []) 900 .always ∧ posting.actions.freeList ≠ [] ∧
    ask posting .postAction (post 1 900 .latch .always) = some (.ok, [1, 0, 1, 0, 0, 3, 0x84, 0]) ∧
    ask held .postAction (post 1 999 (.counts 5) .always) = some (.overlap, [1, 0, 0]) ∧
    ask held .postAction (post 1 1000 (.counts 5) .always) = some (.ok, [1, 1, 1, 0, 0, 3, 0xE8, 0]) ∧
    ask (under .merge held) .postAction (post 1 999 (.counts 5) .always) = some (.ok, [1, 1, 1, 0, 0, 3, 0xE7, 0]) ∧
    ask (under .priority held) .postAction (post 1 999 (.counts 5) .always) = some (.ok, [1, 1, 1, 0, 0, 3, 0xE7, 1]) ∧
    ask (under .priority (channelLeased (bound open_ { action .ahead (.counts 100) none with poster := .auto }))) .postAction
      (post 1 999 (.counts 5) .always) = some (.overlap, [1, 0, 0]) ∧
    ask (tracking (channelLeased open_) (.closed .reject 3 .byPort)) .postAction (post 1 900 .latch (.ifAccept .A)) =
      some (.ok, [1, 0, 2, 0, 0, 3, 0x84, 0]) ∧
    after (exec (.postAction .A) (posed (tracking (channelLeased open_) (.closed .reject 3 .byPort)) .A .postAction
      (post 1 900 .latch (.ifAccept .A)))) (fun t =>
        (t.port .A).slot.map Reply.status = some 0x25 ∧ (t.port .A).queue.length = 1) = true := by
  refine ⟨posed_waits _ _ _ _ (by decide), ⟨.exclusive, by decide +kernel⟩, by decide +kernel, post_passes,
    by decide +kernel, ?_⟩
  and_intros <;> decide +kernel

theorem witness_CancelActionEndsTheAction :
    let s := bound open_ (action .ahead .latch none)
    (posed s .A .cancelAction [1, 0]).FrameWaits .A .cancelAction 7 (be16 0x0100) [] ∧
    s.Names 0x0100 (action .ahead .latch none) ∧
    ask s .cancelAction [1, 0] = some (.ok, [1, 0, 0, 1, 0]) ∧ ask s .cancelAction [0, 0] = some (.badParameter, []) ∧
    ask s .cancelAction [2, 0] = some (.noAction, []) ∧ ask s .cancelAction [1] = some (.badParameter, []) ∧
    ask (bound open_ { action .ahead .latch none with poster := .auto }) .cancelAction [1, 0] = some (.notOwner, []) ∧
    ask (channelLeased (bound open_ { action .ahead .latch none with poster := .auto })) .cancelAction [1, 0] =
      some (.ok, [1, 0, 0, 1, 0]) ∧
    ask (firing open_ (action .on .latch none)) .cancelAction [1, 0] = some (.ok, [1, 0, 0, 1, 1]) := by
  refine ⟨posed_waits _ _ _ _ (by decide), ⟨0, by decide +kernel⟩, ?_⟩
  and_intros <;> decide +kernel

/-- Channel 15 and 16; no lease; a LATCH in ON and one in WAIT_GAP end, an ARMED one does not. -/
theorem witness_ClearChannelEndsItsLatches :
    (posed (channelLeased open_) .A .clearChannel [3]).FrameWaits .A .clearChannel 7 [3] [] ∧ (3 : Byte) = natByte (3 : Fin 16).val ∧
    ask (channelLeased open_) .clearChannel [16] = some (.badParameter, []) ∧
    ask (channelLeased open_) .clearChannel [15] = some (.notLeased, []) ∧
    ask (grant (attach open_ .B) .B 24 .exclusive) .clearChannel [15] = some (.leasedElsewhere, []) ∧
    ask (channelLeased (firing open_ (action .on .latch none))) .clearChannel [3] = some (.ok, [0, 1]) ∧
    ask (channelLeased (firing open_ (action .waitGap .latch none))) .clearChannel [3] = some (.ok, [0, 1]) ∧
    ask (channelLeased (bound open_ (action .ahead .latch none))) .clearChannel [3] = some (.ok, [0, 0]) := by
  refine ⟨posed_waits _ _ _ _ (by decide), rfl, ?_⟩
  and_intros <;> decide +kernel

theorem witness_ReadChannelShowsTheSchedule :
    (posed open_ .A .readChannel [15]).FrameWaits .A .readChannel 7 [natByte (15 : Fin 16).val] [] ∧
    (∀ c : Fin 16, [16] ≠ [natByte c.val]) ∧ ask open_ .readChannel [16] = some (.badParameter, []) ∧
    ask open_ .readChannel [15] = some (.ok, [0, 0, 0, 0, 0, 0, 0, 0, 0]) ∧
    ask (firing open_ (action .on (.time 7) (some 7))) .readChannel [3] =
      some (.ok, [1, 0, 0, 0, 0, 0, 0, 1, 1, 1, 0, 0, 1, 0, 3, 1, 0, 0, 0, 3, 0x84]) := by
  refine ⟨posed_waits _ _ _ _ (by decide), fun c => head_above 16 c _ _ (by decide) (by decide), ?_⟩
  and_intros <;> decide +kernel

/-- The run of the ended window and its DONE in ACTION_END; a stopped timer. -/
theorem witness_WindowTimerExpiryEndsTheAction :
    let s := firing { open_ with pos := { open_.pos with lp := 300 } } (action .on (.time 7) (some 7))
    (s.entry 0).action = some (action .on (.time 7) (some 7)) ∧ (s.entry 1).action = none ∧
    after (exec (.windowTimerExpiry 0) s) (fun t => (t.channel 3).out = .off ∧ (t.port .A).queue =
      [⟨0, 1, 300, .actionEnd 0x0100 5 .done false false true true 300⟩]) = true ∧
    after (exec (.windowTimerExpiry 1) s) (fun t => (t.channel 3).out = .on) = true := by
  decide +kernel

theorem witness_GapTimerExpiryStartsTheWaitingActions :
    let s := firing open_ (action .waitGap (.time 7) none)
    let empty := open_.updChannel 3 (fun ch => { ch with out := .gap, gapTimer := some 20 })
    (open_.channel 3).gapTimer = none ∧ (s.channel 3).gapTimer ≠ none ∧ (s.channel 3).waitSet ≠ [] ∧
    (empty.channel 3).waitSet = [] ∧
    after (exec (.gapTimerExpiry 3) s) (fun t => (t.channel 3).onSet = [0x0100] ∧ t.qLevel 3 ∧
      (t.action? 0x0100).map (fun a => (a.state, a.delayed, a.timer)) = some (.on, true, some 7)) = true ∧
    after (exec (.gapTimerExpiry 3) empty) (fun t => (t.channel 3).out = .off) = true := by
  decide +kernel

/-! ### Items and verdicts -/

/-- Code 63 and 64; item 0; no such item; each state of the slot. The decision point is 500. -/
theorem witness_VerdictIsStoredOrLate :
    let s := fun x => tracking open_ x
    (posed (s (.opened none)) .A .verdict [0, 1, 1, 63]).FrameWaits .A .verdict 7
      (be16 1 ++ [verdictCode .reject, (63 : BitVec 6).setWidth 8]) [] ∧
    ask (s (.opened none)) .verdict [0, 1, 1, 63] = some (.ok, [0, 1, 1, 63, 0, 0, 1, 0xF4, 0, 0, 0, 0]) ∧
    ask (s (.opened (some (.accept, 9)))) .verdict [0, 1, 1, 63] =
      some (.replaced, [0, 1, 1, 63, 0, 9, 0, 0, 1, 0xF4, 0, 0, 0, 0]) ∧
    ask (s (.closed .reject 0 .byDefault)) .verdict [0, 1, 0, 0] = some (.late, [0, 1, 38, 0, 0, 0, 1, 0xF4, 0, 0, 0, 0]) ∧
    ask (s .absent) .verdict [0, 1, 0, 0] = some (.notVoter, []) ∧
    [[0, 1, 1, 64], [0, 1, 2, 0], [0, 0, 1, 0], [0, 1, 1]].map (ask (s (.opened none)) .verdict) =
      List.replicate 4 (some (.badParameter, [])) ∧
    ask (s (.opened none)) .verdict [0, 2, 0, 0] = some (.noItem, []) := by
  refine ⟨posed_waits _ _ _ _ (by decide), ?_⟩
  and_intros <;> decide +kernel

/-- Item 1 under default HOLD with an OVERDUE action of condition IF_REJECT or IF_ACCEPT on port A. -/
def waitingOn (x : Condition) : State :=
  bound open_ { action .overdue .latch none with condition := x, condState := .unresolved }

/-- A pending ACCEPT, no verdict under default HOLD, a slot that is closed; an OVERDUE action that the default fires with LATE,
one that it skips; and a forced close. -/
theorem witness_DecisionPointClosesTheSlot :
    let s := fun x => tracking open_ x
    let reach := fun (t : State) => t.doTask .forward (.point 1 (.decision .A))
    ((s (.opened none)).item? 1) = some (item (.opened none) []) ∧
    ((waitingOn (.ifReject .A)).item? 1) = some (item (.opened none) [0x0100]) ∧
    (∀ pending, (item (.closed .reject 0 .byDefault) []).slots.get .A ≠ .opened pending) ∧
    ((reach (s (.opened (some (.accept, 9))))).item? 1).map (fun it => it.slots.a) = some (.closed .accept 9 .byPort) ∧
    ((reach (s (.opened none))).item? 1).map (fun it => it.slots.a) = some (.closed .reject 0 .byDefault) ∧
    (reach (s (.opened none))).hold = 0x0081 ∧
    ((reach (waitingOn (.ifReject .A))).action? 0x0100).map (fun a => (a.state, a.condState, a.late)) =
      some (.on, .holds, true) ∧
    (reach (waitingOn (.ifAccept .A))).action? 0x0100 = none ∧
    (((s (.opened none)).forceClose 1).item? 1).map (fun it => it.slots.a) = some (.closed .reject 0 .forced) := by
  refine ⟨by decide +kernel, by decide +kernel, fun _ h => by simp [item, PerPort.get] at h, ?_⟩
  and_intros <;> decide +kernel

/-- The record of item 1, and a list from index 0, 1 and 64. -/
theorem witness_ReadItemAndListItemsAnswerTheTable :
    let s := tracking open_ (.opened none)
    (posed s .A .readItem [0, 1]).FrameWaits .A .readItem 7 (be16 1) [] ∧
    (posed s .A .listItems [63]).FrameWaits .A .listItems 7 [natByte (63 : Fin 64).val] [] ∧
    s.items.live = [] ++ item (.opened none) [] :: [] ∧
    ask s .readItem [0, 1] = some (.ok, [0, 1, 0, 1, 0, 0, 0, 0, 0, 0, 0, 40, 0, 0, 0, 0, 0, 0, 0, 0, 0, 0, 0x27, 0x10, 1, 0, 0,
      1, 0, 0, 0, 0, 0, 0, 0]) ∧
    ask s .readItem [0, 0] = some (.badParameter, []) ∧ ask s .readItem [0, 2] = some (.noItem, []) ∧
    ask s .listItems [0] = some (.ok, [1, 0, 1, 0, 2, 0, 0, 0, 1]) ∧ ask s .listItems [63] = some (.ok, [1, 63, 0, 0, 2, 0, 0]) ∧
    ask s .listItems [64] = some (.badParameter, []) := by
  refine ⟨posed_waits _ _ _ _ (by decide), posed_waits _ _ _ _ (by decide), rfl, ?_⟩
  and_intros <;> decide +kernel

/-- One ARMED action LOST, or one FIRING action ABORTED. -/
theorem witness_RemoveItemTakesTheItemOut :
    let s := bound lined (action .ahead .latch none)
    (posed s .A .removeItem [0, 1]).FrameWaits .A .removeItem 7 (be16 1) [] ∧ (s.item? 1).isSome ∧
    ask s .removeItem [0, 1] = some (.ok, [0, 1, 1, 0]) ∧
    ask (firing lined (action .on .latch none)) .removeItem [0, 1] = some (.ok, [0, 1, 0, 1]) ∧
    ask s .removeItem [0, 0] = some (.badParameter, []) ∧ ask s .removeItem [0, 2] = some (.noItem, []) ∧
    ask open_ .removeItem [0, 1] = some (.notLeased, []) := by
  refine ⟨posed_waits _ _ _ _ (by decide), ?_⟩
  and_intros <;> decide +kernel

/-- One item with an ARMED action: LOST in its ACTION_END, then PURGED in ITEM_EXIT. -/
theorem witness_PurgeLineEmptiesTheTable :
    let s := bound lined (action .ahead .latch none)
    (posed s .A .purgeLine []).FrameWaits .A .purgeLine 7 [] [] ∧ (Port.A, LeaseKind.exclusive) ∈ (s.lease 0).holders ∧ s.ItemsSound ∧
    ask s .purgeLine [] = some (.ok, [1]) ∧
    after (exec (.purgeLine .A) (posed s .A .purgeLine [])) (fun t => t.items.live = [] ∧ t.items.nextNumber = 2 ∧
      (t.recipe 1).refCount = 0 ∧ t.action? 0x0100 = none ∧
      (t.port .A).queue.map (fun n => (n.item, n.body)) = [(1, .actionEnd 0x0100 5 .lost false false false false 0),
        (1, .itemExit .purged ⟨false, false, false, false⟩ ⟨.opened none, .absent, .absent⟩)]) = true := by
  exact ⟨posed_waits _ _ _ _ (by decide), by decide +kernel,
    ⟨by decide +kernel, by decide +kernel, by decide +kernel, by decide +kernel, by decide +kernel⟩, by decide +kernel⟩

/-! ### The encoder and the detect inputs -/

/-- The encoder's accepted pair and reference set, with no filter. -/
def phases (m : EncoderMode) (a b : Bool) : State :=
  { open_ with
    line := { open_.line with encoderMode := m }
    pos := { open_.pos with lp := 1000, hwp := 1000, refA := a, refB := b, phaseA := ⟨a, a, none⟩, phaseB := ⟨b, b, none⟩ } }

/-- The LP and the error count after a change of the pair. -/
def turned (m : EncoderMode) (a b a2 b2 : Bool) : List Nat :=
  match exec (.encoderPhaseChange a2 b2) (phases m a b) with
  | .next t => [t.pos.lp.toNat, t.pos.errorCount.toNat]
  | _ => []

/-- The rows of the quadrature sequence of R5, from LP 1,000 each; STEP_DIR and UP_DOWN of R2; both RSTN levels. -/
theorem witness_EncoderEventsMoveThePosition :
    (phases .quad4 false false).rstn = true ∧ (lined.powerOn).rstn = false ∧
    [EncoderMode.quad4, .quad2, .quad1].map (fun m => turned m false false true false) = [[1001, 0], [1001, 0], [1001, 0]] ∧
    [EncoderMode.quad4, .quad2, .quad1].map (fun m => turned m true false true true) = [[1001, 0], [1000, 0], [1000, 0]] ∧
    [EncoderMode.quad4, .quad2, .quad1].map (fun m => turned m true true false true) = [[1001, 0], [1001, 0], [1000, 0]] ∧
    [EncoderMode.quad4, .quad2, .quad1].map (fun m => turned m true false false false) = [[999, 0], [999, 0], [999, 0]] ∧
    [EncoderMode.quad4, .quad2, .quad1].map (fun m => turned m true false false true) = [[1000, 1], [1000, 1], [1000, 1]] ∧
    turned .stepDir false true true true = [999, 0] ∧ turned .stepDir false false true false = [1001, 0] ∧
    turned .upDown false false true false = [1001, 0] ∧ turned .upDown false false false true = [999, 0] := by
  decide +kernel

theorem witness_MotionFollowsTheCounts :
    let s := phases .quad4 false false
    s.rstn = true ∧ s.line.encoderMode = .quad4 ∧ s.line.invert = false ∧ s.line.encoderFilter = 0 ∧
    s.pos.phaseA = ⟨false, false, none⟩ ∧ s.pos.phaseB = ⟨false, false, none⟩ ∧ s.items.live = [] ∧ s.recipes.stage = [] ∧
    (∀ c, s.schedule c = []) ∧ (∀ c, (s.channel c).gapFresh = false) ∧ s.pos.standstillTimer = none ∧
    after (exec .standstillTimerExpiry { s with pos := { s.pos with standstillTimer := some 50, motion := .moving } })
      (fun t => t.pos.motion = .still ∧ (t.port .A).queue = [⟨0, 0, 1000, .lineStill⟩]) = true ∧
    after (exec (.encoderPhaseChange true false) s) (fun t => (t.port .A).queue = [⟨0, 0, 1001, .lineMoving .forward⟩]) =
      true := by
  decide +kernel

/-- A line that moves, with item 1 and its COUNTS action ON since LP 0, whose window of one count ends at the next count. -/
def ending : State :=
  let s := firing open_ (action .on (.counts 1) none)
  { s with pos := { s.pos with motion := .moving } }

theorem ending_entry (i : Fin 256) :
    ending.entry i = if i = 0 then ⟨1, some (action .on (.counts 1) none)⟩ else ⟨1, none⟩ := by
  have pool : ending.actions.pool =
      (Vector.replicate 256 ⟨1, none⟩).set 0 ⟨1, some (action .on (.counts 1) none)⟩ := rfl
  show ending.actions.pool[i.val] = _
  rw [pool, Vector.getElem_set, Vector.getElem_replicate]
  simp only [Fin.ext_iff, eq_comm (a := 0)]
  rfl

theorem ending_free : ending.actions.freeList = (List.finRange 256).drop 1 := rfl

theorem ending_names {h : Handle} {a : Action} :
    ending.Names h a ↔ h = 0x0100 ∧ a = action .on (.counts 1) none := by
  constructor
  · rintro ⟨i, rfl, h⟩
    by_cases z : i = 0
    · subst z
      rw [ending_entry, if_pos rfl] at h ⊢
      exact ⟨by decide, (Option.some.inj h).symm⟩
    · rw [ending_entry, if_neg z] at h
      cases h
  · rintro ⟨rfl, rfl⟩
    exact ⟨0, by rw [ending_entry]; decide, by rw [ending_entry]; rfl⟩

theorem ending_items : ending.ItemsSound where
  atMost := by decide +kernel
  distinct := by decide +kernel
  nonzero := by decide +kernel
  next := by decide +kernel
  refCounts := by decide +kernel

theorem ending_actions : ending.ActionsSound := by
  have lists : ∀ c, ending.schedule c = if c = 3 then [0x0100] else [] := by decide +kernel
  have on : ∀ c, (ending.channel c).onSet = if c = 3 then [0x0100] else [] := by decide +kernel
  have waits : ∀ c, (ending.channel c).waitSet = [] := by decide +kernel
  have live : ending.items.live = [item (.opened none) [0x0100]] := rfl
  exact
    { ownHandle := fun i a h => (ending_names.1 ⟨i, rfl, h⟩).2 ▸ (ending_names.1 ⟨i, rfl, h⟩).1.symm ▸ rfl
      generations := fun i => by rw [ending_entry]; split <;> decide
      freeOnce := by rw [ending_free]; exact (List.nodup_finRange 256).sublist (List.drop_sublist _ _)
      free := fun i => by
        rw [ending_free, List.finRange_succ, ending_entry]
        by_cases z : i = 0 <;> simp [z, Fin.exists_succ_eq]
      scheduledOnce := fun c => by rw [lists]; split <;> simp
      scheduled := fun c h => by
        rw [lists]
        simp only [ending_names]
        split <;> rename_i z <;> simp [action, eq_comm (b := c), z]
      parts := fun c => by rw [lists]; split <;> simp
      listedOnce := by rw [live]; simp [item]
      listed := by rw [live]; simp [ending_names, item, action]
      itemLives := by rw [live]; simp [ending_names, item, action]
      setsOnce := fun c => by rw [on, waits]; split <;> simp
      onSet := fun c h => by
        rw [on]
        simp only [ending_names]
        split <;> rename_i z <;> simp [action, eq_comm (b := c), z]
      waitSet := fun c h => by
        rw [waits]
        simp [ending_names, action]
      notFalse := by simp [ending_names, action]
      started := by simp [ending_names, action]
      leaving := by rw [live]; simp [item]
      templates := by decide +kernel }

/-- A backward count beyond the reverse allowance begins an excursion; one within it does not. -/
theorem witness_MotionFollowsTheCounts_backward :
    let s := { phases .quad4 false false with pos := { (phases .quad4 false false).pos with motion := .moving } }
    let at_ := fun (hwp : Position) => ({ s with pos := { s.pos with hwp := hwp } } : State).takeCount .backward
    (s.pos.hwp - (s.pos.lp - 1)).toNat ≤ s.line.reverseAllowance.toNat ∧
    (at_ 1199).pos.lp = 999 ∧ (at_ 1199).pos.excursion = false ∧ (at_ 1199).hold = 0x0001 ∧
    (at_ 1200).pos.excursion = true ∧ (at_ 1200).hold = 0x0101 ∧
    ((at_ 1200).port .A).queue = [⟨0, 0, 999, .reverseFault 1200 200⟩, ⟨1, 0, 999, .holdChanged 0x0101 0x0001 .raised none⟩] := by
  decide +kernel

/-- Item 1 in a state, with its exit point at 10,000 and its jam point at 5,000, by the configuration after reset. -/
def placed (x : ItemState) : State :=
  (tracking open_ (.opened none)).updItem 1 (fun it => { it with state := x })

/-- A motion; an excursion that aborts a FIRING COUNTS action and leaves a LATCH one; a jam point; a miss end under on-miss
HOLD, under REJECT (with an OVERDUE action) and under REMOVE, also of an item whose LATCH window is ON, after which a hand-over of the count turns ON; an exit; and a stage head applied with the one behind it, whose point is LP. -/
theorem witness_ReachedPointsAct :
    let watching := fun (m : OnMiss) (s : State) => s.updInput 2 (fun i =>
      { i with role := .checkpoint, nominal := 900, window := 100, onMiss := m })
    let missing := fun (m : OnMiss) => watching m (placed .tracked)
    let pulsing := (watching .remove (firing open_ (action .on .latch none))).updChannel 3 (fun ch => { ch with minGap := 5 })
    let staged := { open_ with recipes := { (stocked open_).recipes with stage := [⟨1, .atPosition 0⟩, ⟨0, .atPosition 0⟩] } }
    ((placed .entering).item? 1).isSome ∧ staged.recipes.stage = [⟨1, .atPosition 0⟩, ⟨0, .atPosition 0⟩] ∧
    ((open_.doTask .backward .motion).port .A).queue = [⟨0, 0, 0, .lineMoving .backward⟩] ∧
    ((firing open_ (action .on (.counts 9) none)).doTask .backward .excursion).action? 0x0100 = none ∧
    (((firing open_ (action .on .latch none)).doTask .backward .excursion).action? 0x0100).isSome ∧
    (((placed .entering).doTask .forward (.point 1 .jam)).item? 1).map (fun it => (it.state, it.flags.jam)) =
      some (.tracked, true) ∧
    (((placed .entering).doTask .forward (.point 1 .jam)).port .A).queue =
      [⟨0, 1, 5000, .jam 5000⟩, ⟨1, 0, 0, .holdChanged 0x0041 0x0001 .raised none⟩] ∧
    ((missing .hold).doTask .forward (.point 1 (.missEnd 2))).hold = 0x0401 ∧
    ((missing .remove).doTask .forward (.point 1 (.missEnd 2))).items.live = [] ∧
    (let rejected := (watching .reject (waitingOn (.ifReject .A))).doTask .forward (.point 1 (.missEnd 2))
     (rejected.item? 1).map (fun it => (it.flags.missed, it.slots.a)) = some (true, .closed .reject 0 .forced) ∧
     (rejected.action? 0x0100).map (fun a => (a.state, a.late)) = some (.on, true)) ∧
    (pulsing.doTask .forward (.point 1 (.missEnd 2))).channel 3 = { pulsing.channel 3 with
      out := .gap, onSet := [], gapTimer := some 5, gapFresh := true } ∧
    (((pulsing.doTask .forward (.point 1 (.missEnd 2))).handOver 3 0x0202).channel 3).out = .on ∧
    ((placed .tracked).doTask .forward (.point 1 .exit)).items.live = [] ∧
    (staged.doTask .forward .stage).recipes.stage = [] ∧ (staged.doTask .forward .stage).recipes.current = 0 := by
  decide +kernel

/-- A fire point reached with a condition TRUE, UNRESOLVED, and during a gap; the end of a COUNTS window. -/
theorem witness_FirePointsAndWindowEndsAct :
    let slots : PerPort Slot := ⟨.opened none, .absent, .absent⟩
    let ahead := fun x => bound open_ { action .ahead .latch none with condition := x, condState := decideCondition slots x }
    let fire := fun (s : State) => (s.doTask .forward (.fire 0x0100)).action? 0x0100
    ending.Names 0x0100 (action .on (.counts 1) none) ∧
    (fire (ahead .always)).map (fun a => (a.state, a.start, a.handOver)) = some (.on, some 0, some 900) ∧
    (fire (ahead (.ifAccept .A))).map Action.state = some .overdue ∧
    (fire ((ahead .always).updChannel 3 (fun ch => { ch with out := .gap, gapTimer := some 20 }))).map Action.state =
      some .waitGap ∧
    (ending.doTask .forward (.windowEnd 0x0100)).action? 0x0100 = none ∧
    ((ending.doTask .forward (.windowEnd 0x0100)).channel 3).out = .off := by
  refine ⟨ending_names.2 ⟨rfl, rfl⟩, ?_⟩
  and_intros <;> decide +kernel

/-- The next count from a sound state ends the window, and does so once. -/
theorem witness_CountsActOnEveryReachedPoint :
    ending.ItemsSound ∧ ending.ActionsSound ∧ (ending.takeCount .forward).pos.lp = 1 ∧
    (ending.takeCount .forward).action? 0x0100 = none ∧
    ((ending.takeCount .forward).port .A).queue =
      [⟨0, 1, 1, .actionEnd 0x0100 5 .done false false true true 1⟩] ∧
    (ending.takeCount .backward).pos.lp = 4294967295 ∧ ((ending.takeCount .backward).action? 0x0100).isSome := by
  refine ⟨ending_items, ending_actions, ?_⟩
  and_intros <;> decide +kernel

/-- Detect input 2 under a role and a filter, its pin low and INACTIVE, LP 1,000. -/
def sensing (r : Role) (filter : Byte) (m : Option Measurement) : State :=
  (phases .quad4 false false).updInput 2 (fun i =>
    { i with role := r, filter := filter, nominal := 900, window := 100, measurement := m })

/-- OFF; filter 4 captures LP; filter 0 takes the edge: a MARK, an item created, a phantom; the pin at its level. -/
theorem witness_RawTransitionStartsOrTakesTheEdge :
    ((sensing .off 0 none).input 2).role = .off ∧ ((sensing .mark 4 none).input 2).pin = false ∧
    ((sensing .mark 4 none).input 2).accepted = false ∧
    after (exec (.rawTransition 2 true) (sensing .mark 4 none)) (fun t => (t.input 2).measurement = some ⟨1000, 4⟩) = true ∧
    after (exec (.rawTransition 2 true) (sensing .mark 0 none)) (fun t =>
      (t.port .A).queue = [⟨0, 0, 1000, .mark 2 1000⟩]) = true ∧
    after (exec (.rawTransition 2 true) (sensing .entry 0 none)) (fun t =>
      t.items.live.map (fun it => (it.number, it.entry, it.state)) = [(1, 1000, .entering)] ∧ t.items.trailing = .item 1 ∧
      (t.port .A).queue = [⟨0, 1, 1000, .itemEnter 0 ⟨false, false, false⟩ 0 0⟩]) = true ∧
    after (exec (.rawTransition 2 true) (sensing .checkpoint 0 none)) (fun t =>
      (t.port .A).queue = [⟨0, 0, 1000, .phantom 2 1000⟩]) = true := by
  decide +kernel

/-- Input 2 as ENTRY of filter 4 whose edge was captured at `x`, with LP 1,000, under recipe 1 with one template at 501, and
with a head of the Stage Queue that waits for the next entry. -/
def creating (x : Position) : State :=
  let s := (sensing .entry 4 (some ⟨x, 4⟩)).updRecipe 1 (fun _ => ⟨true, decided 500 501 .A, 0⟩)
  { s with recipes := { s.recipes with stage := [⟨1, .nextEntry⟩] } }

/-- A creation that applies the staged recipe and binds its template; one whose template's point lies behind LP, as its
decision point does, which closes the slot at once. -/
theorem witness_DetectFilterExpiryTakesTheEdge_creation :
    after (exec (.detectFilterExpiry 2) (creating 990)) (fun t =>
      t.recipes.current = 1 ∧ t.recipes.stage = [] ∧ t.items.live.map (fun it => (it.actions, it.missing)) = [([0x0100], 0)] ∧
      (t.action? 0x0100).map (fun a => (a.poster, a.condState, t.firePoint a)) = some (.auto, .unresolved, 1491)) = true ∧
    after (exec (.detectFilterExpiry 2) (creating 400)) (fun t =>
      t.items.live.map (fun it => (it.actions, it.missing, it.flags.incomplete, it.slots.a)) =
        [([], 1, true, .closed .accept 0 .byDefault)]) = true := by
  decide +kernel

/-- An idle input; a measurement captured at 990 and LP 1,000; a match at the edge of the window [900, 1,100]. -/
theorem witness_DetectFilterExpiryTakesTheEdge :
    ((sensing .mark 4 none).input 2).measurement = none ∧
    ((sensing .mark 4 (some ⟨990, 4⟩)).input 2).measurement = some ⟨990, 4⟩ ∧
    after (exec (.detectFilterExpiry 2) (sensing .mark 4 (some ⟨990, 4⟩))) (fun t =>
      (t.port .A).queue = [⟨0, 0, 990, .mark 2 1000⟩]) = true ∧
    after (exec (.detectFilterExpiry 2) (tracking (sensing .checkpoint 4 (some ⟨1000, 4⟩)) (.closed .accept 0 .byPort)))
      (fun t => t.items.live.map (fun it => (it.correction, it.marks)) = [(100, [⟨2, .matched 100⟩])]) = true ∧
    after (exec (.detectFilterExpiry 2) (tracking (sensing .checkpoint 4 (some ⟨799, 4⟩)) (.closed .accept 0 .byPort)))
      (fun t => (t.port .A).queue = [⟨0, 0, 799, .phantom 2 1000⟩]) = true := by
  decide +kernel

/-! ### Invariants -/

/-- A state with a notice in a queue meets R185 and R187, and a step from it answers next. -/
theorem witness_EveryStepKeepsTheQueuesSound : (noticed 0).QueuesSound ∧ step (noticed 0) = .next (noticed 0) := by
  refine ⟨fun p => ?_, rfl⟩
  cases p
  · exact { bounded := by decide +kernel, serials := ⟨rfl, rfl⟩, lostOnlyFull := fun h => absurd rfl h
            detachedEmpty := fun h => by cases h }
  · exact { bounded := by decide +kernel, serials := trivial, lostOnlyFull := fun h => absurd rfl h
            detachedEmpty := fun _ => ⟨rfl, rfl⟩ }
  · exact { bounded := by decide +kernel, serials := trivial, lostOnlyFull := fun h => absurd rfl h
            detachedEmpty := fun _ => ⟨rfl, rfl⟩ }

/-- A held LINE lease meets R166. -/
theorem witness_EveryStepKeepsTheLeasesSound : lined.LeasesSound ∧ step lined = .next lined := by
  refine ⟨fun r => ?_, rfl⟩
  by_cases z : r = 0
  · subst z
    have e : lined.lease 0 = ⟨[(.A, .exclusive)], []⟩ := by decide +kernel
    rw [e]
    exact { oneEach := by decide, exclusiveAlone := by simp, waitersBehind := by simp, waitersFew := by decide
            attached := by simp; decide +kernel }
  · have e : ∀ r : Fin 33, r ≠ 0 → lined.lease r = ⟨[], []⟩ := by decide +kernel
    rw [e r z]
    exact { oneEach := by decide, exclusiveAlone := by simp, waitersBehind := by simp, waitersFew := by decide
            attached := by simp }

/-- A channel in GAP with a waiting action meets R137. -/
theorem witness_EveryStepKeepsTheChannelsSound :
    let s := firing open_ (action .waitGap .latch none)
    s.ChannelsSound ∧ step s = .next s := by
  refine ⟨fun c => ?_, rfl⟩
  revert c
  have f : ∀ c, ((firing open_ (action .waitGap .latch none)).channel c).gapFresh = false := by decide +kernel
  have o : ∀ c, ((firing open_ (action .waitGap .latch none)).channel c).onSet = [] := by decide +kernel
  have g : ∀ c, (((firing open_ (action .waitGap .latch none)).channel c).out = .gap ∧
      ((firing open_ (action .waitGap .latch none)).channel c).gapTimer ≠ none) ∨
      (((firing open_ (action .waitGap .latch none)).channel c).out = .off ∧
        ((firing open_ (action .waitGap .latch none)).channel c).waitSet = [] ∧
        ((firing open_ (action .waitGap .latch none)).channel c).gapTimer = none) := by decide +kernel
  intro c
  refine ⟨f c, ?_⟩
  rcases g c with h | h
  · rw [h.1]
    exact ⟨o c, h.2⟩
  · rw [h.1]
    exact ⟨o c, h.2⟩

/-- One live item under recipe 1 meets R33, R34, R60, R64 and R67. -/
theorem witness_EveryStepKeepsItemsAndRecipesSound :
    let s := tracking open_ (.opened none)
    s.ItemsSound ∧ s.RecipesSound ∧ step s = .next s :=
  ⟨{ atMost := by decide +kernel, distinct := by decide +kernel, nonzero := by decide +kernel, next := by decide +kernel
     refCounts := by decide +kernel },
    { atMost := by decide +kernel, staged := by decide +kernel, current := by decide +kernel, zero := by decide +kernel }, rfl⟩

theorem witness_EveryStepKeepsTheActionStoreSound :
    ending.ItemsSound ∧ ending.ActionsSound ∧ step ending = .next ending := ⟨ending_items, ending_actions, rfl⟩

/-- One ENTRY input, and the causes after reset. -/
theorem witness_EveryStepKeepsOneEntryAndItsCauses :
    (sensing .entry 0 none).OneEntry ∧ open_.CausesSound ∧ step open_ = .next open_ := by
  refine ⟨?_, by unfold State.CausesSound; decide +kernel, rfl⟩
  have h : ∀ j, ((sensing .entry 0 none).input j).role = .entry → j = 2 := by decide +kernel
  intro j k a b
  rw [h j a, h k b]

/-- Each kind of change occurs. -/
theorem witness_OnlyTheirCommandsChangeThem :
    after (exec (.encoderPhaseChange true false) (phases .quad4 false false)) (fun t => t.pos.lp ≠ 1000) = true ∧
    after (exec (.configLine .A) (posed lined .A .configLine (lineOf fun c => { c with exitDistance := 1 })))
      (fun t => t.line ≠ lined.line) = true ∧
    after (exec (.configInput .A) (posed inputLeased .A .configInput (checkpoint 9998 1))) (fun t =>
      (t.input 2).role ≠ (inputLeased.input 2).role) = true ∧
    after (exec (.configChannel .A) (posed (channelLeased open_) .A .configChannel [3, 1, 0, 9, 2, 0, 1])) (fun t =>
      (t.channel 3).polarity ≠ .activeHigh) = true ∧
    after (exec (.writeRecipe .A) (posed recipeLeased .A .writeRecipe ((decided 500 501 .A).block 2 [0]))) (fun t =>
      (t.recipe 2).valid ≠ (recipeLeased.recipe 2).valid) = true ∧
    after (exec (.lease .A) (posed open_ .A .lease [0, 0, 0])) (fun t => t.lease 0 ≠ open_.lease 0) = true := by
  decide +kernel

end Sys2Proof.Tests
end

section
/-! PROOFS. How a waiting frame of a command is taken (R164, R178 to R181), said once for every command, and
READ_POSITION (R13). -/
namespace Sys2Proof.Machine

/-! ### Frames (R178, R180) -/

theorem natByte_toNat {n : Nat} (h : n < 256) : (natByte n).toNat = n := by
  simp [natByte, BitVec.toNat_ofNat, Nat.mod_eq_of_lt h]

/-- The layout of a command frame with its CRC told apart from the bytes it covers. -/
theorem commandFrame_eq_cons (code seq : Byte) (params : List Byte) :
    commandFrame code seq params =
      code :: seq :: natByte params.length :: (params ++ [crc8 (code :: seq :: natByte params.length :: params)]) := rfl

@[simp] theorem dropLast_commandFrame (code seq : Byte) (params : List Byte) :
    (commandFrame code seq params).dropLast = code :: seq :: natByte params.length :: params :=
  List.dropLast_concat

@[simp] theorem getLastD_commandFrame (code seq d : Byte) (params : List Byte) :
    (commandFrame code seq params).getLastD d = crc8 (code :: seq :: natByte params.length :: params) :=
  List.getLastD_concat ..

/-- Checks 2 and 3 of R180 on a frame of three bytes or more that ended on a whole byte. -/
theorem judgeFrame_cons (code seq n : Byte) (rest : List Byte) :
    judgeFrame ⟨code :: seq :: n :: rest, false⟩ =
      if 128 < n.toNat ∨ rest.length ≠ n.toNat + 1 then .malformed .length
      else if crc8 (code :: seq :: n :: rest).dropLast ≠ (code :: seq :: n :: rest).getLastD 0 then .malformed .crc
      else .command code seq rest.dropLast := rfl

theorem judgeFrame_commandFrame (code seq : Byte) {params : List Byte} (h : params.length ≤ 128) :
    judgeFrame ⟨commandFrame code seq params, false⟩ = .command code seq params := by
  have length : (natByte params.length).toNat = params.length := natByte_toNat (by omega)
  have crc : crc8 (commandFrame code seq params).dropLast = (commandFrame code seq params).getLastD 0 := by
    rw [dropLast_commandFrame, getLastD_commandFrame]
  rw [commandFrame_eq_cons] at crc ⊢
  rw [judgeFrame_cons, if_neg (by simp [length, h]), if_neg (not_not.2 crc), List.dropLast_concat]

/-! ### Taking a command (R164, R181) -/

@[simp] theorem PerPort.set_set {α : Type} (x : PerPort α) (p : Port) (v w : α) : (x.set p v).set p w = x.set p w := by
  cases p <;> rfl

@[simp] theorem State.setPort_setPort (s : State) (p : Port) (x y : PortState) :
    (s.setPort p x).setPort p y = s.setPort p y := by
  simp [State.setPort]

theorem PortState.restartKeepalive_eq (ps : PortState) :
    ps.restartKeepalive = { ps with session := ps.session.heard } := by
  by_cases h : ps.session.attached = true <;> simp [PortState.restartKeepalive, Session.heard, h]

/-- The operation that takes a frame leaves the state that the claims call `taking`. -/
theorem State.updPort_restartKeepalive_eq_taking (s : State) (p : Port) (rest : List Frame) :
    (s.updPort p fun ps => { ps with waiting := rest }).updPort p PortState.restartKeepalive = s.taking p rest := by
  simp [State.updPort, State.taking, PortState.restartKeepalive_eq]

@[simp] theorem State.taking_pos (s : State) (p : Port) (rest : List Frame) : (s.taking p rest).pos = s.pos := rfl

/-- What follows a command's own rule: its reply is placed, then the actions that it names end SKIPPED (R83). -/
def Answer.finish (r : Answer) (p : Port) (code seq : Byte) : State :=
  r.skipped.foldl (fun t h => t.endAction h .skipped) (r.state.placeReply p code seq r.result r.payload)

@[simp] theorem Answer.finish_of_no_skipped (t : State) (res : Result) (payload : List Byte) (p : Port) (code seq : Byte) :
    (Answer.mk t res payload []).finish p code seq = t.placeReply p code seq res payload := rfl

@[simp] theorem finish_refuse (t : State) (res : Result) (p : Port) (code seq : Byte) :
    (refuse t res).finish p code seq = t.placeReply p code seq res [] := rfl

/-- A waiting command that the port may send is answered by its own rule, in the state `taking`. -/
theorem State.takeCommand_eq_finish {s : State} {p : Port} {name : CommandName} {seq : Byte} {params : List Byte}
    {rest : List Frame} (waits : s.FrameWaits p name seq params rest) (needsSession : Bool)
    (session : needsSession = true → (s.port p).session.attached = true) (body : State → List Byte → Answer) :
    s.takeCommand p name needsSession body = (body (s.taking p rest) params).finish p (commandCode name) seq := by
  obtain ⟨short, front⟩ := waits
  have taken : (needsSession && !(s.port p).session.attached) = false := by
    cases needsSession <;> simp_all
  simp [State.takeCommand, front, judgeFrame_commandFrame _ _ short, taken,
    State.updPort_restartKeepalive_eq_taking, Answer.finish]

/-! ### READ_POSITION (R13) -/

/-- A command without parameters: check 4 of R181 refuses every other block. -/
theorem withBlock_readNothing (s : State) (params : List Byte) (k : Unit → Answer) :
    withBlock s (readNothing params) k = if params = [] then k () else refuse s .badParameter := by
  cases params <;> rfl

theorem motionCode_eq_ite (m : Motion) : motionCode m = if m = .still then 0 else 1 := by cases m <;> rfl

/-- The answer of READ_POSITION, with its bytes as spec 12 lays them out. -/
theorem readPositionBody_eq_ite (s : State) (params : List Byte) :
    readPositionBody s params =
      if params = [] then
        ⟨s, .ok, be32 s.pos.lp ++ be32 s.pos.hwp ++
          [if s.pos.motion = .still then 0 else 1, if s.pos.excursion then 1 else 0] ++ be16 s.pos.errorCount, []⟩
      else refuse s .badParameter := by
  rw [readPositionBody, withBlock_readNothing, motionCode_eq_ite, flagByte]

theorem exec_readPosition (p : Port) (s : State) :
    exec (.readPosition p) s = .next (s.takeCommand p .readPosition true readPositionBody) := rfl

/-- Settles O23: a non-empty block is refused by check 4, and an empty one is answered from the Position Counter, which
taking the frame leaves as it was. -/
theorem readPositionReports : Obligations.ReadPositionReports := by
  unfold Obligations.ReadPositionReports
  intro s p seq params rest waits attached
  rw [exec_readPosition, State.takeCommand_eq_finish waits true fun _ => attached, readPositionBody_eq_ite,
    State.taking_pos]
  by_cases empty : params = []
  · rw [if_pos empty, if_pos empty, Answer.finish_of_no_skipped, commandCode]
  · rw [if_neg empty, if_neg empty, finish_refuse, commandCode]

end Sys2Proof.Machine
end

section
/-! PROOFS. CANCEL_ACTION (R77, R98): how its block is read, what its rule answers by the action that the handle names. -/
namespace Sys2Proof.Machine

/-! ### Two-byte blocks (R196) -/

/-- The two bytes of a field read back as the field: `makeHandle_iff` for the parts that `be16` takes. -/
theorem read16_extractLsb' (x : Half) : read16 (x.extractLsb' 8 8) (x.extractLsb' 0 8) = x :=
  ((makeHandle_iff _ (handleIndex x) x).2 ⟨rfl, rfl⟩).symm

theorem readHandleBlock_be16 (h : Handle) : readHandleBlock (be16 h) = if h = 0 then none else some h := by
  rw [be16, readHandleBlock, read16_extractLsb']

theorem readHandleBlock_of_length_ne {params : List Byte} (length : params.length ≠ 2) :
    readHandleBlock params = none := by
  match params with
  | [] | [_] | _ :: _ :: _ :: _ => rfl
  | [_, _] => exact absurd rfl length

/-- Check 4 of R181 passes a handle other than 0 on. -/
theorem withBlock_handle {h : Handle} (nonzero : h ≠ 0) (s : State) (k : Handle → Answer) :
    withBlock s (readHandleBlock (be16 h)) k = k h := by
  rw [readHandleBlock_be16, if_neg nonzero, withBlock]

/-! ### What the checks of CANCEL_ACTION read (R98, R171) -/

theorem State.holdsExclusive_iff (s : State) (p : Port) (r : Fin 33) :
    s.holdsExclusive p r = true ↔ (p, LeaseKind.exclusive) ∈ (s.lease r).holders :=
  List.contains_iff_mem

theorem flagByte_firing (a : Action) :
    flagByte a.firing = if a.state = .on ∨ a.state = .waitGap then 1 else 0 := by
  simp only [flagByte, State.firing_iff]

/-- Taking a frame leaves what every handle names. -/
@[simp] theorem State.taking_action (s : State) (p : Port) (rest : List Frame) (h : Handle) :
    (s.taking p rest).action? h = s.action? h := rfl

/-! ### CANCEL_ACTION (R98) -/

/-- The caller may cancel the action: it is its poster, or the exclusive holder of its channel (R98). -/
def State.MayCancel (s : State) (p : Port) (a : Action) : Prop :=
  a.poster = .station p ∨ (p, LeaseKind.exclusive) ∈ (s.lease (resChannel a.channel)).holders

theorem State.mayCancel_iff (s : State) (p : Port) (a : Action) :
    (a.poster = .station p || s.holdsExclusive p (resChannel a.channel)) = true ↔ s.MayCancel p a := by
  rw [Bool.or_eq_true, decide_eq_true_eq, State.holdsExclusive_iff, State.MayCancel]

theorem cancelActionBody_of_unread {params : List Byte} (unread : readHandleBlock params = none) (p : Port) (s : State) :
    cancelActionBody p s params = refuse s .badParameter := by
  rw [cancelActionBody, unread, withBlock]

theorem cancelActionBody_of_unnamed {h : Handle} (nonzero : h ≠ 0) {s : State} (unnamed : s.action? h = none) (p : Port) :
    cancelActionBody p s (be16 h) = refuse s .noAction := by
  simp only [cancelActionBody, withBlock_handle nonzero, unnamed]

theorem cancelActionBody_of_not_mayCancel {h : Handle} (nonzero : h ≠ 0) {s : State} {a : Action}
    (named : s.action? h = some a) {p : Port} (denied : ¬s.MayCancel p a) :
    cancelActionBody p s (be16 h) = refuse s .notOwner := by
  simp only [cancelActionBody, withBlock_handle nonzero, named]
  exact if_neg (mt (s.mayCancel_iff p a).1 denied)

theorem cancelActionBody_of_mayCancel {h : Handle} (nonzero : h ≠ 0) {s : State} {a : Action}
    (named : s.action? h = some a) {p : Port} (allowed : s.MayCancel p a) :
    cancelActionBody p s (be16 h) =
      ⟨s.endAction h .cancelled, .ok, be16 h ++ be16 a.item ++ [flagByte a.firing], []⟩ := by
  simp only [cancelActionBody, withBlock_handle nonzero, named]
  exact if_pos ((s.mayCancel_iff p a).2 allowed)

theorem exec_cancelAction_eq_finish {s : State} {p : Port} {seq : Byte} {params : List Byte} {rest : List Frame}
    (waits : s.FrameWaits p .cancelAction seq params rest) (attached : (s.port p).session.attached = true) :
    exec (.cancelAction p) s = .next ((cancelActionBody p (s.taking p rest) params).finish p 0x41 seq) :=
  congrArg _ (State.takeCommand_eq_finish waits true (fun _ => attached) (cancelActionBody p))

/-- Settles O36: check 4 of R181 refuses a block that holds no handle or the handle 0; otherwise the pool entry that the
handle reads decides, the same before and after its frame is taken, and a caller that may cancel brings an ending of R93. -/
theorem cancelActionEndsTheAction : Obligations.CancelActionEndsTheAction := by
  unfold Obligations.CancelActionEndsTheAction
  intro s p seq params rest waits attached
  dsimp only
  rw [exec_cancelAction_eq_finish waits attached]
  refine ⟨fun length => ?_, ?_⟩
  · rw [cancelActionBody_of_unread (readHandleBlock_of_length_ne length), finish_refuse]
  rintro h rfl
  refine ⟨fun zero => ?_, fun nonzero unnamed => ?_, fun a nonzero named => ?_⟩
  · rw [cancelActionBody_of_unread (by rw [readHandleBlock_be16, if_pos zero]), finish_refuse]
  · have unnamed : (s.taking p rest).action? h = none := by
      rw [State.taking_action, State.not_names.1 unnamed]
    rw [cancelActionBody_of_unnamed nonzero unnamed, finish_refuse]
  · have named : (s.taking p rest).action? h = some a := by
      rw [State.taking_action, State.names_iff.1 named]
    refine ⟨fun denied => ?_, fun allowed => ⟨_, State.endAction_whole .cancelled named, ?_⟩⟩
    · rw [cancelActionBody_of_not_mayCancel nonzero named denied, finish_refuse]
    · rw [cancelActionBody_of_mayCancel nonzero named allowed, Answer.finish_of_no_skipped, flagByte_firing]

end Sys2Proof.Machine
end

section
/-! PROOFS. RELEASE_HOLD (R153): how its block is read, what its rule answers by the causes that the mask names. -/
namespace Sys2Proof.Machine

/-! ### The block (R153, R196) -/

/-- The bits outside the twelve assigned causes are bits 12 to 15 (R149). -/
theorem not_allCauses : ~~~allCauses = 0xF000 := by decide

theorem readHoldBlock_be16 (mask : Half) :
    readHoldBlock (be16 mask) = if mask &&& 0xF000 = 0 then some mask else none := by
  rw [be16, readHoldBlock, read16_extractLsb', not_allCauses]

theorem readHoldBlock_of_length_ne {params : List Byte} (length : params.length ≠ 2) :
    readHoldBlock params = none := by
  match params with
  | [] | [_] | _ :: _ :: _ :: _ => rfl
  | [_, _] => exact absurd rfl length

/-- Check 1 of R153 passes a mask within the twelve causes on. -/
theorem withBlock_holdMask {mask : Half} (assigned : mask &&& 0xF000 = 0) (s : State) (k : Half → Answer) :
    withBlock s (readHoldBlock (be16 mask)) k = k mask := by
  rw [readHoldBlock_be16, if_pos assigned, withBlock]

/-! ### What the rule reads and writes -/

@[simp] theorem State.taking_hold (s : State) (p : Port) (rest : List Frame) : (s.taking p rest).hold = s.hold := rfl

@[simp] theorem State.taking_lease (s : State) (p : Port) (rest : List Frame) (r : Fin 33) :
    (s.taking p rest).lease r = s.lease r := rfl

theorem State.HoldChanged.hold_eq {s t : State} {after : Half} {origin : HoldOrigin} {port : Option Port}
    (changed : s.HoldChanged t after origin port) : t.hold = after := by
  obtain ⟨whole, -⟩ := changed
  rw [whole]

@[simp] theorem State.changeHold_hold (s : State) (after : Half) (origin : HoldOrigin) (port : Option Port) :
    (s.changeHold after origin port).hold = after :=
  (State.changeHold_changed s after origin port).hold_eq

/-! ### RELEASE_HOLD (R153) -/

/-- The caller may name the causes of the mask: they are its own PORT cause at most, or it is the exclusive holder of the
LINE lease (check 2 of R153). -/
def State.MayRelease (s : State) (p : Port) (mask : Half) : Prop :=
  mask &&& ~~~causePort p = 0 ∨ (p, LeaseKind.exclusive) ∈ (s.lease resLine).holders

theorem State.mayRelease_iff (s : State) (p : Port) (mask : Half) :
    (mask &&& ~~~causePort p = 0 || s.holdsExclusive p resLine) = true ↔ s.MayRelease p mask := by
  rw [Bool.or_eq_true, decide_eq_true_eq, State.holdsExclusive_iff, State.MayRelease]

theorem releaseHoldBody_of_unread {params : List Byte} (unread : readHoldBlock params = none) (p : Port) (s : State) :
    releaseHoldBody p s params = refuse s .badParameter := by
  rw [releaseHoldBody, unread, withBlock]

theorem releaseHoldBody_of_not_mayRelease {mask : Half} (assigned : mask &&& 0xF000 = 0) {s : State} {p : Port}
    (denied : ¬s.MayRelease p mask) : releaseHoldBody p s (be16 mask) = refuse s .notLeased := by
  rw [releaseHoldBody, withBlock_holdMask assigned]
  exact if_neg (mt (s.mayRelease_iff p mask).1 denied)

theorem releaseHoldBody_of_mayRelease {mask : Half} (assigned : mask &&& 0xF000 = 0) {s : State} {p : Port}
    (allowed : s.MayRelease p mask) :
    releaseHoldBody p s (be16 mask) =
      ⟨s.changeHold (s.hold &&& ~~~mask) .released (some p), .ok,
        be16 s.hold ++ be16 (s.hold &&& ~~~mask) ++ be16 (s.hold &&& mask), []⟩ := by
  rw [releaseHoldBody, withBlock_holdMask assigned, require, if_pos ((s.mayRelease_iff p mask).2 allowed)]
  simp only [State.changeHold_hold]

theorem exec_releaseHold_eq_finish {s : State} {p : Port} {seq : Byte} {params : List Byte} {rest : List Frame}
    (waits : s.FrameWaits p .releaseHold seq params rest) (attached : (s.port p).session.attached = true) :
    exec (.releaseHold p) s = .next ((releaseHoldBody p (s.taking p rest) params).finish p 0x71 seq) :=
  congrArg _ (State.takeCommand_eq_finish waits true (fun _ => attached) (releaseHoldBody p))

/-- Settles O22: check 1 refuses a block of another length or with a bit above 11, check 2 a caller that may not name the
causes; taking the frame changes neither the set nor the leases, so the named causes leave the set that the caller saw, in
one change of it. -/
theorem releaseHoldRemovesTheNamedCauses : Obligations.ReleaseHoldRemovesTheNamedCauses := by
  unfold Obligations.ReleaseHoldRemovesTheNamedCauses
  intro s p seq params rest waits attached
  dsimp only
  rw [exec_releaseHold_eq_finish waits attached]
  refine ⟨fun length => ?_, ?_⟩
  · rw [releaseHoldBody_of_unread (readHoldBlock_of_length_ne length), finish_refuse]
  rintro mask rfl
  refine ⟨fun unassigned => ?_, fun assigned denied => ?_, fun assigned allowed =>
    ⟨_, State.changeHold_changed _ _ .released (some p), ?_⟩⟩
  · rw [releaseHoldBody_of_unread (by rw [readHoldBlock_be16, if_neg unassigned]), finish_refuse]
  · have denied : ¬(s.taking p rest).MayRelease p mask := denied
    rw [releaseHoldBody_of_not_mayRelease assigned denied, finish_refuse]
  · have allowed : (s.taking p rest).MayRelease p mask := allowed
    rw [releaseHoldBody_of_mayRelease assigned allowed, Answer.finish_of_no_skipped, State.taking_hold]

end Sys2Proof.Machine
end

section
/-! PROOFS. Frames that are no command (R180), the port status byte and the levels of the output pins (R136, R149, R182,
R191, R197). -/
namespace Sys2Proof.Machine

/-! ### Malformed frames (R180) -/

/-- Reason 1 of R180: fewer than four bytes, a length byte above 128, or another number of bytes than it announces. -/
def Frame.BadLength (f : Frame) : Prop :=
  f.bytes.length < 4 ∨ 128 < (f.bytes.getD 2 0).toNat ∨ f.bytes.length ≠ (f.bytes.getD 2 0).toNat + 4

/-- Reason 2 of R180: the last byte is not the CRC of those before it. -/
def Frame.BadCrc (f : Frame) : Prop := f.bytes.getLastD 0 ≠ crc8 f.bytes.dropLast

/-- From three bytes on, the other two conditions settle reason 1: with no byte behind the third the count is wrong. -/
theorem Frame.badLength_cons_iff (code seq n : Byte) (rest : List Byte) (partialByte : Bool) :
    Frame.BadLength ⟨code :: seq :: n :: rest, partialByte⟩ ↔ 128 < n.toNat ∨ rest.length ≠ n.toNat + 1 := by
  simp only [Frame.BadLength, List.length_cons, List.getD_cons_succ, List.getD_cons_zero]
  omega

theorem judgeFrame_of_partialByte {f : Frame} (inByte : f.partialByte = true) :
    judgeFrame f = .malformed .partialByte :=
  if_pos inByte

theorem judgeFrame_of_badLength {f : Frame} (whole : f.partialByte = false) (bad : f.BadLength) :
    judgeFrame f = .malformed .length := by
  obtain ⟨bytes, _⟩ := f
  cases whole
  match bytes with
  | [] | [_] | [_, _] => rfl
  | code :: seq :: n :: rest =>
    rw [Frame.badLength_cons_iff] at bad
    rw [judgeFrame_cons, if_pos bad]

theorem judgeFrame_of_badCrc {f : Frame} (whole : f.partialByte = false) (length : ¬f.BadLength) (bad : f.BadCrc) :
    judgeFrame f = .malformed .crc := by
  obtain ⟨bytes, _⟩ := f
  cases whole
  match bytes with
  | [] | [_] | [_, _] => exact absurd (.inl (by simp)) length
  | code :: seq :: n :: rest =>
    rw [Frame.badLength_cons_iff] at length
    rw [judgeFrame_cons, if_neg length, if_pos bad.symm]

/-! ### The answers to frames that are no command (R180) -/

/-- The codes listed as known are those of the commands, in the order of spec 12. -/
theorem knownCodes_eq_map : knownCodes =
    [CommandName.attach, .detach, .portReset, .status, .fetch, .ack, .lease, .release, .configLine, .configInput,
      .configChannel, .writeRecipe, .eraseRecipe, .readRecipe, .stageRecipe, .cancelStage, .postAction, .cancelAction,
      .clearChannel, .readChannel, .verdict, .readItem, .listItems, .removeItem, .purgeLine, .setHold, .releaseHold,
      .readPosition, .setPosition, .resetDevice].map commandCode := rfl

theorem exists_commandCode_eq_of_mem_knownCodes {code : Byte} (known : code ∈ knownCodes) :
    ∃ name, commandCode name = code := by
  rw [knownCodes_eq_map] at known
  obtain ⟨name, -, coded⟩ := List.mem_map.1 known
  exact ⟨name, coded⟩

theorem exec_unknownCommand (p : Port) (s : State) : exec (.unknownCommand p) s = .next (s.takeBadFrame p) := rfl

theorem State.takeBadFrame_of_malformed {s : State} {p : Port} {f : Frame} {rest : List Frame}
    (front : (s.port p).waiting = f :: rest) {reason : FrameFault} (judged : judgeFrame f = .malformed reason) :
    s.takeBadFrame p =
      (s.setPort p { s.port p with waiting := rest }).placeReply p (f.bytes.getD 0 0) (f.bytes.getD 1 0) .frameError
        (frameFaultCode reason :: be16 (receivedCount f)) := by
  simp only [State.takeBadFrame, front, judged, State.updPort]

theorem State.takeBadFrame_of_unknown {s : State} {p : Port} {f : Frame} {rest : List Frame}
    (front : (s.port p).waiting = f :: rest) {code seq : Byte} {params : List Byte}
    (judged : judgeFrame f = .command code seq params) (unknown : ∀ name, commandCode name ≠ code) :
    s.takeBadFrame p =
      (s.setPort p { s.port p with waiting := rest }).placeReply p code seq .unknownCommand [] := by
  have unlisted : ¬knownCodes.contains code = true := fun listed => by
    obtain ⟨name, coded⟩ := exists_commandCode_eq_of_mem_knownCodes (List.contains_iff_mem.1 listed)
    exact unknown name coded
  simp only [State.takeBadFrame, front, judged, if_neg unlisted, State.updPort]

/-- Settles O5: the checks of R180 decide in order how the frame is judged, and the judgement decides the answer. -/
theorem framesThatAreNoCommandAreAnsweredOnly : Obligations.FramesThatAreNoCommandAreAnsweredOnly := by
  unfold Obligations.FramesThatAreNoCommandAreAnsweredOnly
  intro s p f rest front
  dsimp only
  rw [exec_unknownCommand]
  refine ⟨fun inByte => ?_, fun whole length => ?_, fun whole length crc => ?_, ?_⟩
  · rw [State.takeBadFrame_of_malformed front (judgeFrame_of_partialByte inByte), frameFaultCode, receivedCount]
  · rw [State.takeBadFrame_of_malformed front (judgeFrame_of_badLength whole length), frameFaultCode, receivedCount]
  · rw [State.takeBadFrame_of_malformed front (judgeFrame_of_badCrc whole length crc), frameFaultCode, receivedCount]
  · rintro code seq params rfl short unknown
    rw [State.takeBadFrame_of_unknown front (judgeFrame_commandFrame code seq short) unknown]

/-! ### The port status byte (R182, R197) -/

/-- The weights of the status byte put each flag at its own bit. -/
theorem natByte_statusFlags (attached notices unread overrun lost hold : Bool) :
    natByte ((if attached then 1 else 0) + (if notices then 2 else 0) +
        ((if unread then 4 else 0) + (if overrun then 8 else 0)) + (if lost then 16 else 0) + (if hold then 32 else 0)) =
      BitVec.ofBoolListLE [attached, notices, unread, overrun, lost, hold, false, false] := by
  decide +revert

theorem statusByte_eq_ofBoolListLE (ps : PortState) (holdSet : Bool) :
    statusByte ps holdSet =
      BitVec.ofBoolListLE [ps.session.attached, !ps.queue.isEmpty, ps.slot.any (fun r => !r.read),
        ps.slot.any (fun r => r.overrun), ps.lost != 0, holdSet, false, false] := by
  rw [← natByte_statusFlags, statusByte]
  cases ps.slot with
  | none => simp
  | some r => cases unread : r.read <;> simp [unread]

/-! ### The output pins (R136, R149, R191) -/

theorem State.atnAsserted_iff (s : State) (p : Port) :
    s.atnAsserted p = true ↔ s.rstn = true ∧ ((s.port p).queue ≠ [] ∨
      ((s.port p).session.attached = true ∧ (s.port p).session.attention = true ∧
        ∃ r, (s.port p).slot = some r ∧ r.read = false)) := by
  rw [State.atnAsserted, ← State.port]
  cases (s.port p).slot with
  | none => simp
  | some r => simp [and_assoc]

theorem State.holdnAsserted_iff (s : State) : s.holdnAsserted = true ↔ s.rstn = false ∨ s.hold ≠ 0 := by
  simp [State.holdnAsserted]

theorem State.qLevel_iff (s : State) (c : Fin 16) :
    s.qLevel c = true ↔ ((s.channel c).polarity = .activeHigh ↔ (s.channel c).onSet ≠ []) := by
  rw [State.qLevel, ← State.channel]
  cases (s.channel c).polarity <;> simp

/-- Settles O7: the status byte is the list of its flags, lowest bit first, and each pin follows its condition. -/
theorem statusByteAndPinsFollowTheState : Obligations.StatusByteAndPinsFollowTheState := by
  unfold Obligations.StatusByteAndPinsFollowTheState
  refine ⟨fun ps holdSet => ?_, fun s => ⟨s.atnAsserted_iff, s.holdnAsserted_iff, s.qLevel_iff⟩⟩
  simp only [statusByte_eq_ofBoolListLE, BitVec.getLsbD_ofBoolListLE]
  exact ⟨rfl, rfl, rfl, rfl, rfl, rfl, rfl, rfl⟩

end Sys2Proof.Machine
end

section
/-! PROOFS. ACK (R187, R189): which notices a serial removes, and what the removal leaves in the queue. -/
namespace Sys2Proof.Machine

/-! ### The notices that a serial removes (R189) -/

theorem ackCount_of_first {queue before after : List Notice} {n : Notice} (split : queue = before ++ n :: after)
    (first : ∀ m ∈ before, m.serial ≠ n.serial) : ackCount queue n.serial = some (before.length + 1) := by
  have none_before : before.findIdx? (fun m => m.serial = n.serial) = none :=
    List.findIdx?_eq_none_iff.2 fun m h => decide_eq_false (first m h)
  simp [ackCount, split, List.findIdx?_append, none_before, List.findIdx?_cons]

theorem ackCount_of_absent {queue : List Notice} {serial : Byte} (absent : ∀ n ∈ queue, n.serial ≠ serial) :
    ackCount queue serial = none := by
  rw [ackCount, List.findIdx?_eq_none_iff.2 fun n h => decide_eq_false (absent n h), Option.map_none]

/-! ### What the removal leaves (R187, R189) -/

theorem drop_of_split {queue before after : List Notice} {n : Notice} (split : queue = before ++ n :: after) :
    queue.drop (before.length + 1) = after := by
  simp [split]

theorem PortState.ack_of_lost_eq_zero {ps : PortState} {before after : List Notice} {n : Notice}
    (queue : ps.queue = before ++ n :: after) (lost : ps.lost = 0) (lp : Position) :
    ps.ack lp (before.length + 1) = { ps with queue := after } := by
  rw [PortState.ack, if_pos lost, drop_of_split queue]

/-- After losses OVERFLOW joins behind what is left, and the lost count returns to 0 (R187). -/
theorem PortState.ack_of_lost_ne_zero {ps : PortState} {before after : List Notice} {n : Notice}
    (queue : ps.queue = before ++ n :: after) (lost : ps.lost ≠ 0) (lp : Position) :
    ps.ack lp (before.length + 1) =
      { ps with
        queue := after ++ [⟨ps.nextSerial, 0, lp, .overflow ps.lost⟩]
        nextSerial := ps.nextSerial + 1, lost := 0 } := by
  rw [PortState.ack, if_neg lost, drop_of_split queue, PortState.enqueue]

/-! ### ACK -/

theorem readSerialBlock_of_length_ne {params : List Byte} (length : params.length ≠ 1) :
    readSerialBlock params = none := by
  match params with
  | [] | _ :: _ :: _ => rfl
  | [_] => exact absurd rfl length

theorem ackBody_of_unread {params : List Byte} (unread : readSerialBlock params = none) (p : Port) (s : State) :
    ackBody p s params = refuse s .badParameter := by
  rw [ackBody, unread, withBlock]

theorem ackBody_of_absent {s : State} {p : Port} {serial : Byte}
    (absent : ∀ n ∈ (s.port p).queue, n.serial ≠ serial) :
    ackBody p s [serial] = refuse s .badSerial := by
  simp only [ackBody, readSerialBlock, withBlock, ackCount_of_absent absent]

theorem ackBody_of_count {s : State} {p : Port} {serial : Byte} {removed : Nat}
    (count : ackCount (s.port p).queue serial = some removed) :
    ackBody p s [serial] =
      ⟨s.setPort p ((s.port p).ack s.pos.lp removed), .ok,
        [natByte removed, natByte ((s.port p).ack s.pos.lp removed).queue.length, flagByte ((s.port p).lost != 0),
          if (s.port p).lost = 0 then 0 else (s.port p).nextSerial], []⟩ := by
  simp only [ackBody, readSerialBlock, withBlock, count]

/-- The removal while no notice was lost (R189). -/
theorem ackBody_of_lost_eq_zero {s : State} {p : Port} {before after : List Notice} {n : Notice}
    (queue : (s.port p).queue = before ++ n :: after) (first : ∀ m ∈ before, m.serial ≠ n.serial)
    (lost : (s.port p).lost = 0) :
    ackBody p s [n.serial] =
      ⟨s.setPort p { s.port p with queue := after }, .ok,
        [natByte (before.length + 1), natByte after.length, 0, 0], []⟩ := by
  have flag : flagByte ((s.port p).lost != 0) = 0 := if_neg fun some_lost => bne_iff_ne.1 some_lost lost
  rw [ackBody_of_count (ackCount_of_first queue first), PortState.ack_of_lost_eq_zero queue lost, flag, if_pos lost]

/-- The removal after losses, which OVERFLOW reports (R187, R189). -/
theorem ackBody_of_lost_ne_zero {s : State} {p : Port} {before after : List Notice} {n : Notice}
    (queue : (s.port p).queue = before ++ n :: after) (first : ∀ m ∈ before, m.serial ≠ n.serial)
    (lost : (s.port p).lost ≠ 0) :
    ackBody p s [n.serial] =
      ⟨s.setPort p
        { s.port p with
          queue := after ++ [⟨(s.port p).nextSerial, 0, s.pos.lp, .overflow (s.port p).lost⟩]
          nextSerial := (s.port p).nextSerial + 1, lost := 0 }, .ok,
        [natByte (before.length + 1), natByte (after.length + 1), 1, (s.port p).nextSerial], []⟩ := by
  have flag : flagByte ((s.port p).lost != 0) = 1 := if_pos (bne_iff_ne.2 lost)
  rw [ackBody_of_count (ackCount_of_first queue first), PortState.ack_of_lost_ne_zero queue lost, flag, if_neg lost,
    List.length_append, List.length_singleton]

theorem exec_ack_eq_finish {s : State} {p : Port} {seq : Byte} {params : List Byte} {rest : List Frame}
    (waits : s.FrameWaits p .ack seq params rest) (attached : (s.port p).session.attached = true) :
    exec (.ack p) s = .next ((ackBody p (s.taking p rest) params).finish p 0x06 seq) :=
  congrArg _ (State.takeCommand_eq_finish waits true (fun _ => attached) (ackBody p))

/-- Taking a frame changes the waiting frames and the session of its port alone. -/
theorem State.taking_port_self (s : State) (p : Port) (rest : List Frame) :
    (s.taking p rest).port p = { s.port p with waiting := rest, session := (s.port p).session.heard } :=
  s.port_setPort_self p _

@[simp] theorem State.taking_queue (s : State) (p : Port) (rest : List Frame) :
    ((s.taking p rest).port p).queue = (s.port p).queue := by rw [State.taking_port_self]

@[simp] theorem State.taking_lost (s : State) (p : Port) (rest : List Frame) :
    ((s.taking p rest).port p).lost = (s.port p).lost := by rw [State.taking_port_self]

@[simp] theorem State.taking_nextSerial (s : State) (p : Port) (rest : List Frame) :
    ((s.taking p rest).port p).nextSerial = (s.port p).nextSerial := by rw [State.taking_port_self]

/-- Settles O15: check 4 of R181 refuses a block of another length; otherwise the place of the serial in the queue, which
taking the frame leaves as it was, decides what is removed, and the lost count whether OVERFLOW joins. -/
theorem ackRemovesThroughTheSerial : Obligations.AckRemovesThroughTheSerial := by
  unfold Obligations.AckRemovesThroughTheSerial
  intro s p seq params rest waits attached
  dsimp only
  rw [exec_ack_eq_finish waits attached]
  refine ⟨fun length => ?_, ?_⟩
  · rw [ackBody_of_unread (readSerialBlock_of_length_ne length), finish_refuse]
  rintro serial rfl
  refine ⟨?_, fun absent => ?_⟩
  · rintro before n after queue rfl first
    rw [← s.taking_queue p rest] at queue
    by_cases lost : (s.port p).lost = 0
    · have lost' : ((s.taking p rest).port p).lost = 0 := (s.taking_lost p rest).trans lost
      rw [if_pos lost, ackBody_of_lost_eq_zero queue first lost', Answer.finish_of_no_skipped]
    · have lost' : ((s.taking p rest).port p).lost ≠ 0 := (s.taking_lost p rest).trans_ne lost
      rw [if_neg lost, ackBody_of_lost_ne_zero queue first lost', Answer.finish_of_no_skipped, State.taking_lost,
        State.taking_nextSerial, State.taking_pos]
  · rw [← s.taking_queue p rest] at absent
    rw [ackBody_of_absent absent, finish_refuse]

end Sys2Proof.Machine
end

section
/-! PROOFS. What every command and event does, said once: the rule of each command by its name, the three ways in which the
row of a command can be taken, and that every step answers a next state. -/
namespace Sys2Proof.Machine

/-! ### The rows of the commands -/

/-- The own rule of each command, from check 4 of R181 onward. -/
def CommandName.body : CommandName → Port → State → List Byte → Answer
  | .attach => attachBody
  | .detach => detachBody
  | .portReset => portResetBody
  | .status => statusBody
  | .fetch => fetchBody
  | .ack => ackBody
  | .lease => leaseBody
  | .release => releaseBody
  | .configLine => configLineBody
  | .configInput => configInputBody
  | .configChannel => configChannelBody
  | .writeRecipe => writeRecipeBody
  | .eraseRecipe => eraseRecipeBody
  | .readRecipe => fun _ => readRecipeBody
  | .stageRecipe => stageRecipeBody
  | .cancelStage => cancelStageBody
  | .postAction => postActionBody
  | .cancelAction => cancelActionBody
  | .clearChannel => clearChannelBody
  | .readChannel => fun _ => readChannelBody
  | .verdict => verdictBody
  | .readItem => fun _ => readItemBody
  | .listItems => fun _ => listItemsBody
  | .removeItem => removeItemBody
  | .purgeLine => purgeLineBody
  | .setHold => setHoldBody
  | .releaseHold => releaseHoldBody
  | .readPosition => fun _ => readPositionBody
  | .setPosition => setPositionBody
  | .resetDevice => resetDeviceBody

theorem exec_row (name : CommandName) (p : Port) (s : State) :
    exec (name.row p) s = .next (s.takeCommand p name (!name.takenDetached) (name.body p)) := by
  cases name <;> rfl

/-- A waiting command that the port may send is answered by its own rule (R181). -/
theorem exec_row_eq_finish {s : State} {p : Port} {name : CommandName} {seq : Byte} {params : List Byte}
    {rest : List Frame} (waits : s.FrameWaits p name seq params rest)
    (session : name.takenDetached = false → (s.port p).session.attached = true) :
    exec (name.row p) s =
      .next ((name.body p (s.taking p rest) params).finish p (commandCode name) seq) := by
  rw [exec_row, State.takeCommand_eq_finish waits _ (fun h => session (by simpa using h))]

/-- Every way in which the row of a command can be taken: nothing is taken (log 3), the frame is answered NOT_ATTACHED
(check 3 of R181), or the command's own rule answers it. -/
theorem State.takeCommand_cases (s : State) (p : Port) (name : CommandName) (needsSession : Bool)
    (body : State → List Byte → Answer) :
    s.takeCommand p name needsSession body = s ∨
    (∃ code seq rest, s.takeCommand p name needsSession body =
      (s.setPort p { s.port p with waiting := rest }).placeReply p code seq .notAttached []) ∨
    ∃ code seq params rest, (needsSession = true → (s.port p).session.attached = true) ∧
      s.takeCommand p name needsSession body = (body (s.taking p rest) params).finish p code seq := by
  unfold State.takeCommand
  split
  · exact .inl rfl
  · rename_i f rest front
    split
    · exact .inl rfl
    · rename_i code seq params judged
      split
      · dsimp only
        split
        · exact .inr (.inl ⟨code, seq, rest, rfl⟩)
        · rename_i session
          refine .inr (.inr ⟨code, seq, params, rest, fun needed => ?_, ?_⟩)
          · simpa [needed] using session
          · rw [State.updPort_restartKeepalive_eq_taking, Answer.finish]
      · exact .inl rfl

/-- Every command and event is the row of a command or one of the rows that no command code names. -/
theorem Instr.byRow {motive : Instr → Prop} (row : ∀ name p, motive (CommandName.row name p))
    (unknownCommand : ∀ p, motive (.unknownCommand p)) (read : ∀ p clocked, motive (.read p clocked))
    (powerOnReset : ∀ lowNs, motive (.powerOnReset lowNs))
    (encoderPhaseChange : ∀ a b, motive (.encoderPhaseChange a b))
    (encoderFilterExpiry : ∀ a b, motive (.encoderFilterExpiry a b))
    (standstillTimerExpiry : motive .standstillTimerExpiry)
    (rawTransition : ∀ k level, motive (.rawTransition k level))
    (detectFilterExpiry : ∀ k, motive (.detectFilterExpiry k))
    (windowTimerExpiry : ∀ entry, motive (.windowTimerExpiry entry))
    (gapTimerExpiry : ∀ c, motive (.gapTimerExpiry c)) (keepaliveExpiry : ∀ p, motive (.keepaliveExpiry p))
    (rstnRise : motive .rstnRise) (csnFall : ∀ p, motive (.csnFall p))
    (replySlotCopy : ∀ p, motive (.replySlotCopy p))
    (commandFrameEnd : ∀ p bytes partialByte, motive (.commandFrameEnd p bytes partialByte)) (c : Instr) :
    motive c := by
  cases c with
  | attach p => exact row .attach p
  | detach p => exact row .detach p
  | portReset p => exact row .portReset p
  | status p => exact row .status p
  | fetch p => exact row .fetch p
  | ack p => exact row .ack p
  | lease p => exact row .lease p
  | release p => exact row .release p
  | configLine p => exact row .configLine p
  | configInput p => exact row .configInput p
  | configChannel p => exact row .configChannel p
  | writeRecipe p => exact row .writeRecipe p
  | eraseRecipe p => exact row .eraseRecipe p
  | readRecipe p => exact row .readRecipe p
  | stageRecipe p => exact row .stageRecipe p
  | cancelStage p => exact row .cancelStage p
  | postAction p => exact row .postAction p
  | cancelAction p => exact row .cancelAction p
  | clearChannel p => exact row .clearChannel p
  | readChannel p => exact row .readChannel p
  | verdict p => exact row .verdict p
  | readItem p => exact row .readItem p
  | listItems p => exact row .listItems p
  | removeItem p => exact row .removeItem p
  | purgeLine p => exact row .purgeLine p
  | setHold p => exact row .setHold p
  | releaseHold p => exact row .releaseHold p
  | readPosition p => exact row .readPosition p
  | setPosition p => exact row .setPosition p
  | resetDevice p => exact row .resetDevice p
  | unknownCommand p => exact unknownCommand p
  | read p clocked => exact read p clocked
  | powerOnReset lowNs => exact powerOnReset lowNs
  | encoderPhaseChange a b => exact encoderPhaseChange a b
  | encoderFilterExpiry a b => exact encoderFilterExpiry a b
  | standstillTimerExpiry => exact standstillTimerExpiry
  | rawTransition k level => exact rawTransition k level
  | detectFilterExpiry k => exact detectFilterExpiry k
  | windowTimerExpiry entry => exact windowTimerExpiry entry
  | gapTimerExpiry c => exact gapTimerExpiry c
  | keepaliveExpiry p => exact keepaliveExpiry p
  | rstnRise => exact rstnRise
  | csnFall p => exact csnFall p
  | replySlotCopy p => exact replySlotCopy p
  | commandFrameEnd p bytes partialByte => exact commandFrameEnd p bytes partialByte

/-- What a command or event makes of a state. -/
def effect : Instr → State → State
  | .unknownCommand p, s => s.takeBadFrame p
  | .read p clocked, s => s.endRead p clocked
  | .powerOnReset lowNs, s => s.resetPulse lowNs
  | .encoderPhaseChange a b, s => s.phaseChange a b
  | .encoderFilterExpiry a b, s => s.phaseExpiry a b
  | .standstillTimerExpiry, s => s.standstill
  | .rawTransition k level, s => s.pinChange k level
  | .detectFilterExpiry k, s => s.filterExpiry k
  | .windowTimerExpiry entry, s => s.windowExpiry entry
  | .gapTimerExpiry c, s => s.gapExpiry c
  | .keepaliveExpiry p, s => s.keepaliveExpires p
  | .rstnRise, s => s.resetRise
  | .csnFall p, s => s.csnFalls p
  | .replySlotCopy p, s => s.copySlot p
  | .commandFrameEnd p bytes partialByte, s => s.endFrame p bytes partialByte
  | c, s => match exec c s with
    | .next t => t
    | _ => s

/-- Every command and event answers a next state. -/
theorem exec_eq_effect (c : Instr) (s : State) : exec c s = .next (effect c s) := by
  cases c <;> rfl

theorem effect_row (name : CommandName) (p : Port) (s : State) :
    effect (name.row p) s = s.takeCommand p name (!name.takenDetached) (name.body p) :=
  Host.Outcome.next.inj ((exec_eq_effect _ s).symm.trans (exec_row name p s))

/-- A step is the idling of an empty queue, or the effect of the front command or event. -/
theorem step_cases {s t : State} (h : step s = .next t) :
    t = s ∨ ∃ c rest, s.pending = c :: rest ∧ t = effect c { s with pending := rest } := by
  unfold step at h
  split at h
  · exact .inl (Host.Outcome.next.inj h).symm
  · rename_i c rest front
    rw [exec_eq_effect] at h
    exact .inr ⟨c, rest, front, (Host.Outcome.next.inj h).symm⟩

/-- Settles O1: both clauses are the two branches of `step`. -/
theorem stepTakesTheFrontCommand : Obligations.StepTakesTheFrontCommand := by
  unfold Obligations.StepTakesTheFrontCommand
  intro c rest s
  refine ⟨fun front => ?_, fun empty => ?_⟩
  · rw [step, front]
  · rw [step, empty]

end Sys2Proof.Machine
end

section
/-! PROOFS. What a step does to the stated invariants, said once: the relation `State.KeepsSound`, with one lemma for each kind
of change that a command or event makes outside the Action Store. -/
namespace Sys2Proof.Machine

/-- Everything between two states of a step that the stated invariants speak of, but for the Action Store's. -/
structure State.KeepsSound (s t : State) : Prop where
  pending : t.pending = s.pending
  queues : s.QueuesSound → t.QueuesSound
  leases : s.LeasesSound → t.LeasesSound
  channels : s.ChannelsSound → t.ChannelsSound
  items : s.ItemsSound → t.ItemsSound
  recipes : s.RecipesSound → t.RecipesSound
  causes : s.CausesSound → t.CausesSound
  oneEntry : s.OneEntry → t.OneEntry

@[simp] theorem Session.heard_attached (x : Session) : x.heard.attached = x.attached := by
  unfold Session.heard; split <;> rfl

/-- An empty queue with nothing lost is sound in every session state. -/
theorem PortState.QueueSound.of_empty {ps : PortState} (queue : ps.queue = []) (lost : ps.lost = 0) :
    ps.QueueSound := by
  refine ⟨?_, ?_, fun h => absurd lost h, fun _ => ⟨queue, lost⟩⟩
  · simp [queue]
  · rw [queue]; trivial

namespace State

theorem KeepsSound.refl (s : State) : s.KeepsSound s := ⟨rfl, id, id, id, id, id, id, id⟩

theorem KeepsSound.trans {s t u : State} (h1 : s.KeepsSound t) (h2 : t.KeepsSound u) : s.KeepsSound u where
  pending := h2.pending.trans h1.pending
  queues := h2.queues ∘ h1.queues
  leases := h2.leases ∘ h1.leases
  channels := h2.channels ∘ h1.channels
  items := h2.items ∘ h1.items
  recipes := h2.recipes ∘ h1.recipes
  causes := h2.causes ∘ h1.causes
  oneEntry := h2.oneEntry ∘ h1.oneEntry

theorem KeepsSound.foldl {α : Type} (f : State → α → State) (h : ∀ (s : State) (x : α), s.KeepsSound (f s x))
    (xs : List α) (s : State) : s.KeepsSound (xs.foldl f s) :=
  foldl_related _ KeepsSound.refl (fun _ _ _ => KeepsSound.trans) f h xs s

/-! ### Leases and ports -/

/-- The soundness of a lease entry speaks of the sessions alone. -/
theorem LeaseSound.of_attached {s t : State} {e : LeaseEntry} (h : s.LeaseSound e)
    (a : ∀ p, (s.port p).session.attached = true → (t.port p).session.attached = true) : t.LeaseSound e :=
  ⟨h.oneEach, h.exclusiveAlone, h.waitersBehind, h.waitersFew, fun x m => a _ (h.attached x m)⟩

theorem PortsOffered.attached {s t : State} (h : s.PortsOffered t) (p : Port) :
    (t.port p).session.attached = (s.port p).session.attached := by
  rw [(h p).onlyNotices.session]

/-- A change of the ports that keeps each queue sound and ends no session. -/
theorem KeepsSound.of_ports {s t : State} (e : t = { s with ports := t.ports })
    (q : s.QueuesSound → t.QueuesSound)
    (a : ∀ p, (s.port p).session.attached = true → (t.port p).session.attached = true) : s.KeepsSound t where
  pending := by rw [e]
  queues := q
  leases h r := by
    have same : t.lease r = s.lease r := by rw [e]; rfl
    rw [same]
    exact (h r).of_attached a
  channels := by rw [e]; exact id
  items h := by rw [e]; exact ⟨h.atMost, h.distinct, h.nonzero, h.next, h.refCounts⟩
  recipes h := by rw [e]; exact ⟨h.atMost, h.staged, h.current, h.zero⟩
  causes := by rw [e]; exact id
  oneEntry := by rw [e]; exact id

/-- A port's record replaced by one of the same session state whose queue is sound when the old one is. -/
theorem KeepsSound.of_setPort (s : State) (p : Port) (x : PortState) (q : (s.port p).QueueSound → x.QueueSound)
    (a : (s.port p).session.attached = true → x.session.attached = true) : s.KeepsSound (s.setPort p x) := by
  refine .of_ports rfl (fun h r => ?_) (fun r h => ?_)
  · rw [State.port_setPort]
    split
    · exact q (h p)
    · exact h r
  · rw [State.port_setPort]
    split
    · subst_vars; exact a h
    · exact h

/-- A port's record replaced by one that differs in nothing that its notices and its session are made of. -/
theorem KeepsSound.of_bookkeeping (s : State) (p : Port) (x : PortState) (queue : x.queue = (s.port p).queue)
    (nextSerial : x.nextSerial = (s.port p).nextSerial) (lost : x.lost = (s.port p).lost)
    (attached : x.session.attached = (s.port p).session.attached) : s.KeepsSound (s.setPort p x) := by
  refine .of_setPort s p x (fun h => ⟨?_, ?_, ?_, ?_⟩) (fun h => attached.trans h)
  · rw [queue]; exact h.bounded
  · rw [queue, nextSerial]; exact h.serials
  · rw [queue, lost]; exact h.lostOnlyFull
  · rw [queue, lost, attached]; exact h.detachedEmpty

theorem KeepsSound.placeReply (s : State) (p : Port) (code seq : Byte) (r : Result) (payload : List Byte) :
    s.KeepsSound (s.placeReply p code seq r payload) :=
  .of_bookkeeping s p _ rfl rfl rfl rfl

theorem KeepsSound.taking (s : State) (p : Port) (rest : List Frame) : s.KeepsSound (s.taking p rest) :=
  .of_bookkeeping s p _ rfl rfl rfl (Session.heard_attached _)

/-! ### What runs within an event -/

theorem LeasesSound.of_offered {s t : State} (h : s.LeasesSound) (leases : t.leases = s.leases)
    (ports : s.PortsOffered t) : t.LeasesSound := fun r => by
  have same : t.lease r = s.lease r := by simp only [State.lease, leases]
  rw [same]
  exact (h r).of_attached fun p a => (ports.attached p).trans a

theorem KeepsSound.of_runs {s t : State} (h : State.Runs True s t) : s.KeepsSound t where
  pending := h.pending
  queues q p := (q p).offered (h.ports p)
  leases l := l.of_offered h.leases h.ports
  channels := h.channelsSound
  items := h.items
  recipes := h.recipes
  causes := h.causes
  oneEntry := by unfold OneEntry State.input; rw [h.inputs]; exact id

theorem KeepsSound.of_ends {s t : State} (h : s.Ends t) : s.KeepsSound t := .of_runs (.of_ends h)

theorem KeepsSound.endActions (s : State) (o : ActionOutcome) (hs : List Handle) :
    s.KeepsSound (hs.foldl (fun t h => t.endAction h o) s) :=
  .of_ends (.endActions s o hs)

theorem KeepsSound.finish {s : State} {r : Answer} (h : s.KeepsSound r.state) (p : Port) (code seq : Byte) :
    s.KeepsSound (r.finish p code seq) :=
  (h.trans (.placeReply _ _ _ _ _ _)).trans (.endActions _ _ _)

/-! ### What is written whole -/

/-- The position, the filters, the line and the input configurations written: the notices, the leases, the channels, the items and
the recipes do not speak of them. -/
theorem KeepsSound.of_settings {s t : State}
    (e : t = { s with rstn := t.rstn, pos := t.pos, line := t.line, inputs := t.inputs, free := t.free })
    (mask : s.line.holdMask &&& ~~~conditionCauses = 0 → t.line.holdMask &&& ~~~conditionCauses = 0)
    (entry : s.OneEntry → t.OneEntry) : s.KeepsSound t where
  pending := by rw [e]
  queues := by rw [e]; exact id
  leases h := by rw [e]; exact fun r => (h r).of_attached fun _ => id
  channels := by rw [e]; exact id
  items h := by rw [e]; exact ⟨h.atMost, h.distinct, h.nonzero, h.next, h.refCounts⟩
  recipes h := by rw [e]; exact ⟨h.atMost, h.staged, h.current, h.zero⟩
  causes h := ⟨by rw [e]; exact h.1, mask h.2⟩
  oneEntry := entry

/-- The Lease Table changed, with notices offered. -/
theorem KeepsSound.of_leases {s t : State} (e : t = { s with leases := t.leases, ports := t.ports })
    (ports : s.PortsOffered t) (leases : s.LeasesSound → t.LeasesSound) : s.KeepsSound t where
  pending := by rw [e]
  queues h p := (h p).offered (ports p)
  leases := leases
  channels := by rw [e]; exact id
  items h := by rw [e]; exact ⟨h.atMost, h.distinct, h.nonzero, h.next, h.refCounts⟩
  recipes h := by rw [e]; exact ⟨h.atMost, h.staged, h.current, h.zero⟩
  causes := by rw [e]; exact id
  oneEntry := by rw [e]; exact id

/-- The Recipe Store written, each reference count kept. -/
theorem KeepsSound.of_recipes {s t : State} (e : t = { s with recipes := t.recipes })
    (refCounts : ∀ i, (t.recipe i).refCount = (s.recipe i).refCount) (recipes : s.RecipesSound → t.RecipesSound) :
    s.KeepsSound t where
  pending := by rw [e]
  queues := by rw [e]; exact id
  leases h := by rw [e]; exact fun r => (h r).of_attached fun _ => id
  channels := by rw [e]; exact id
  items h := by
    have live : t.items = s.items := by rw [e]
    exact ⟨live ▸ h.atMost, live ▸ h.distinct, live ▸ h.nonzero, live ▸ h.next,
      fun i => by rw [refCounts, live]; exact h.refCounts i⟩
  recipes := recipes
  causes := by rw [e]; exact id
  oneEntry := by rw [e]; exact id

/-- The output stages and the Action Store changed. -/
theorem KeepsSound.of_stages {s t : State} (e : t = { s with channels := t.channels, actions := t.actions })
    (channels : s.ChannelsSound → t.ChannelsSound) : s.KeepsSound t where
  pending := by rw [e]
  queues := by rw [e]; exact id
  leases h := by rw [e]; exact fun r => (h r).of_attached fun _ => id
  channels := channels
  items h := by rw [e]; exact ⟨h.atMost, h.distinct, h.nonzero, h.next, h.refCounts⟩
  recipes h := by rw [e]; exact ⟨h.atMost, h.staged, h.current, h.zero⟩
  causes := by rw [e]; exact id
  oneEntry := by rw [e]; exact id

end State

end Sys2Proof.Machine
end

section
/-! PROOFS. The wait list arbiter and the end of a session (R161, R166 to R170): what each leaves unchanged, and that each keeps the
Lease Table as R166 allows it. -/
namespace Sys2Proof.Machine

namespace State

/-! ### The arbiter -/

/-- What the runs of arbiters leave alone, and whom they tell. -/
structure LeasesMoved (s t : State) : Prop where
  rest : t = { s with leases := t.leases, ports := t.ports }
  ports : s.PortsOffered t

theorem LeasesMoved.refl (s : State) : s.LeasesMoved s := ⟨rfl, .refl s⟩

theorem LeasesMoved.trans {s t u : State} (h1 : s.LeasesMoved t) (h2 : t.LeasesMoved u) : s.LeasesMoved u :=
  ⟨by rw [h2.rest, h1.rest], h1.ports.trans h2.ports⟩

/-- One grant (R169): the entry it makes, and whom it tells. -/
theorem LeasesMoved.grant (s : State) (r : Fin 33) (f : LeaseEntry → LeaseEntry) (q : Port) (n : Half) (x : Position)
    (body : NoticeBody) : s.LeasesMoved ((s.updLease r f).offerTo q n x body) :=
  ⟨rfl, (s.updLease r f).offerTo_offered q n x body⟩

theorem Arbitrates.moved {r : Fin 33} {n : Nat} {s t : State} (h : Arbitrates r n s t) : s.LeasesMoved t := by
  induction h with
  | done s | stop s => exact .refl s
  | grant s t n q k rest _ _ _ ih => exact (LeasesMoved.grant s r _ q _ _ _).trans ih

theorem Arbitrates.lease_other {r : Fin 33} {n : Nat} {s t : State} (h : Arbitrates r n s t) {q : Fin 33} (ne : q ≠ r) :
    t.lease q = s.lease q := by
  induction h with
  | done | stop => rfl
  | grant s t n p k rest _ _ _ ih => rw [ih, offerTo_lease, lease_updLease, if_neg ne]

/-- R166 of one entry while its arbiter has still to run: a wait list may stand behind no holder. -/
structure LeaseOpen (s : State) (e : LeaseEntry) : Prop where
  oneEach : ((e.holders ++ e.waiters).map Prod.fst).Nodup
  exclusiveAlone : ∀ h ∈ e.holders, h.2 = .exclusive → e.holders = [h]
  waitersFew : e.waiters.length ≤ 2
  attached : ∀ h ∈ e.holders ++ e.waiters, (s.port h.1).session.attached = true

theorem LeaseSound.opened {s : State} {e : LeaseEntry} (h : s.LeaseSound e) : s.LeaseOpen e :=
  ⟨h.oneEach, h.exclusiveAlone, h.waitersFew, h.attached⟩

theorem LeaseOpen.sound {s : State} {e : LeaseEntry} (h : s.LeaseOpen e) (w : e.waiters ≠ [] → e.holders ≠ []) :
    s.LeaseSound e :=
  ⟨h.oneEach, h.exclusiveAlone, w, h.waitersFew, h.attached⟩

theorem LeaseOpen.of_attached {s t : State} {e : LeaseEntry} (h : s.LeaseOpen e)
    (a : ∀ p, (t.port p).session.attached = (s.port p).session.attached) : t.LeaseOpen e :=
  ⟨h.oneEach, h.exclusiveAlone, h.waitersFew, fun x m => (a _).trans (h.attached x m)⟩

/-- A request may join the holders (R167, R169): EXCLUSIVE on an empty holder set, SHARED where no exclusive holder stands. -/
def JoinsHolders (k : LeaseKind) (holders : List (Port × LeaseKind)) : Prop :=
  k = .exclusive ∧ holders = [] ∨ k = .shared ∧ ∀ x ∈ holders, x.2 ≠ .exclusive

theorem JoinsHolders.exclusiveAlone {k : LeaseKind} {holders : List (Port × LeaseKind)} (j : JoinsHolders k holders)
    (q : Port) : ∀ h ∈ holders ++ [(q, k)], h.2 = .exclusive → holders ++ [(q, k)] = [h] := by
  intro h m x
  obtain ⟨-, rfl⟩ | ⟨rfl, shared⟩ := j
  · simp_all
  · simp only [List.mem_append, List.mem_singleton] at m
    obtain m | rfl := m
    · exact absurd x (shared h m)
    · cases x

/-- Where a request may not join the holders, there is a holder. -/
theorem JoinsHolders.holder_of_not {k : LeaseKind} {holders : List (Port × LeaseKind)} (j : ¬JoinsHolders k holders) :
    holders ≠ [] := by
  rintro rfl
  cases k
  · exact j (.inl ⟨rfl, rfl⟩)
  · exact j (.inr ⟨rfl, by simp⟩)

theorem LeaseOpen.grant {s : State} {holders rest : List (Port × LeaseKind)} {q : Port} {k : LeaseKind}
    (h : s.LeaseOpen ⟨holders, (q, k) :: rest⟩) (j : JoinsHolders k holders) :
    s.LeaseOpen ⟨holders ++ [(q, k)], rest⟩ where
  oneEach := by simpa using h.oneEach
  exclusiveAlone := j.exclusiveAlone q
  waitersFew := by have := h.waitersFew; simp at this ⊢; omega
  attached x m := h.attached x (by simpa using m)

/-- The arbiter leaves its entry as R166 has it: it stops at an empty wait list, or behind a holder. -/
theorem Arbitrates.leaseSound {r : Fin 33} {n : Nat} {s t : State} (h : Arbitrates r n s t)
    (o : s.LeaseOpen (s.lease r)) : t.LeaseSound (t.lease r) := by
  induction h with
  | done s empty => exact o.sound fun w => absurd empty w
  | stop s q k rest _ refused => exact o.sound fun _ => JoinsHolders.holder_of_not refused
  | grant s t n q k rest waiters granted _ ih =>
    refine ih ?_
    have entry : s.lease r = ⟨(s.lease r).holders, (q, k) :: rest⟩ := by rw [← waiters]
    rw [offerTo_lease, lease_updLease, if_pos rfl]
    rw [entry] at o
    exact (o.grant granted).of_attached (offerTo_offered _ _ _ _ _).attached

theorem runArbiter_arbitrates (s : State) (r : Fin 33) : Arbitrates r (s.runArbiter r).1 s (s.runArbiter r).2 :=
  arbitrate_runs _ r s (Nat.le_refl _)

/-- The arbiters of a list of resources, where those outside the list already stand as R166 has them. -/
theorem runArbiters_leasesSound (rs : List (Fin 33)) (s : State) (o : ∀ r, s.LeaseOpen (s.lease r))
    (others : ∀ r, r ∉ rs → s.LeaseSound (s.lease r)) : (rs.foldl (fun t r => (t.runArbiter r).2) s).LeasesSound := by
  induction rs generalizing s with
  | nil => exact fun r => others r (by simp)
  | cons r rs ih =>
    have run := s.runArbiter_arbitrates r
    have attached := run.moved.ports.attached
    have sound : (s.runArbiter r).2.LeaseSound ((s.runArbiter r).2.lease r) := run.leaseSound (o r)
    refine ih _ (fun q => ?_) (fun q out => ?_)
    · by_cases same : q = r
      · exact same ▸ sound.opened
      · rw [run.lease_other same]; exact (o q).of_attached attached
    · by_cases same : q = r
      · exact same ▸ sound
      · rw [run.lease_other same]
        exact (others q (by simp [same, out])).of_attached fun p a => (attached p).trans a

theorem runArbiters_moved (rs : List (Fin 33)) (s : State) :
    s.LeasesMoved (rs.foldl (fun t r => (t.runArbiter r).2) s) :=
  foldl_related _ LeasesMoved.refl (fun _ _ _ => LeasesMoved.trans) _ (fun t r => (t.runArbiter_arbitrates r).moved) rs s

/-! ### An entry that a port has left -/

theorem LeaseOpen.without {s t : State} {e : LeaseEntry} (h : s.LeaseOpen e) (p : Port)
    (a : ∀ q, q ≠ p → (t.port q).session.attached = (s.port q).session.attached) : t.LeaseOpen (e.without p) := by
  have left : ((e.without p).holders ++ (e.without p).waiters).Sublist (e.holders ++ e.waiters) :=
    List.filter_sublist.append List.filter_sublist
  refine ⟨h.oneEach.sublist (left.map _), fun x m exclusive => ?_,
    (List.filter_sublist.length_le).trans h.waitersFew, fun x m => ?_⟩
  · obtain ⟨held, ne⟩ := List.mem_filter.1 m
    simp only [LeaseEntry.without, h.exclusiveAlone x held exclusive, List.filter_cons, ne, if_true, List.filter_nil]
  · have ne : x.1 ≠ p := by
      simp only [LeaseEntry.without, List.mem_append, List.mem_filter, decide_eq_true_eq] at m
      exact m.elim And.right And.right
    exact (a _ ne).trans (h.attached x (left.subset m))

end State

theorem LeaseEntry.names_iff (e : LeaseEntry) (p : Port) :
    e.names p = true ↔ ∃ k, (p, k) ∈ e.holders ++ e.waiters := by
  simp [LeaseEntry.names, exists_or]

theorem LeaseEntry.without_of_not_names {e : LeaseEntry} {p : Port} (h : e.names p = false) :
    e.without p = e := by
  have absent : ∀ x ∈ e.holders ++ e.waiters, x.1 ≠ p := fun x m named => by
    have : e.names p = true := (e.names_iff p).2 ⟨x.2, by rwa [← named]⟩
    simp [this] at h
  have holders : e.holders.filter (fun x => x.1 ≠ p) = e.holders :=
    List.filter_eq_self.2 fun x m => decide_eq_true (absent x (by simp [m]))
  have waiters : e.waiters.filter (fun x => x.1 ≠ p) = e.waiters :=
    List.filter_eq_self.2 fun x m => decide_eq_true (absent x (by simp [m]))
  rw [LeaseEntry.without, holders, waiters]

namespace State

/-- RELEASE keeps the Lease Table sound (R168, R169). -/
theorem LeasesSound.release {s : State} (h : s.LeasesSound) (p : Port) (r : Fin 33) :
    ((s.updLease r (fun e => e.without p)).runArbiter r).2.LeasesSound := by
  have run := (s.updLease r (fun e => e.without p)).runArbiter_arbitrates r
  have attached := run.moved.ports.attached
  intro q
  by_cases same : q = r
  · subst same
    refine run.leaseSound ?_
    rw [lease_updLease, if_pos rfl]
    exact (h q).opened.without p fun _ _ => rfl
  · rw [run.lease_other same, lease_updLease, if_neg same]
    exact (h q).of_attached fun y a => (attached y).trans a

/-! ### The end of a session -/

/-- The state in which step 1 of R161 runs the arbiters: the port is detached and stands in no entry. -/
def sessionLeft (s : State) (p : Port) : State :=
  { s.updPort p PortState.detach with leases := s.leases.map (fun e => e.without p) }

theorem sessionLeft_lease (s : State) (p : Port) (r : Fin 33) : (s.sessionLeft p).lease r = (s.lease r).without p := by
  simp [sessionLeft, State.lease]

theorem sessionLeft_port_self (s : State) (p : Port) : (s.sessionLeft p).port p = (s.port p).detach :=
  s.port_updPort_self p _

theorem sessionLeft_port_other (s : State) {p q : Port} (ne : q ≠ p) : (s.sessionLeft p).port q = s.port q :=
  s.port_updPort_other _ ne

/-- Step 1 of R161 as the runs of the arbiters in that state. -/
theorem endLeases_eq (s : State) (p : Port) :
    (s.updPort p PortState.detach).endLeases p =
      ((List.finRange 33).filter (fun r => (s.lease r).names p)).foldl (fun t r => (t.runArbiter r).2)
        (s.sessionLeft p) := rfl

theorem endLeases_moved (s : State) (p : Port) :
    (s.sessionLeft p).LeasesMoved ((s.updPort p PortState.detach).endLeases p) := by
  rw [endLeases_eq]; exact runArbiters_moved _ _

theorem LeasesSound.endLeases {s : State} (h : s.LeasesSound) (p : Port) :
    ((s.updPort p PortState.detach).endLeases p).LeasesSound := by
  rw [endLeases_eq]
  have others : ∀ q, q ≠ p → ((s.sessionLeft p).port q).session.attached = (s.port q).session.attached :=
    fun q ne => by rw [sessionLeft_port_other s ne]
  refine runArbiters_leasesSound _ _ (fun r => ?_) (fun r out => ?_)
  · rw [sessionLeft_lease]; exact (h r).opened.without p others
  · have unnamed : (s.lease r).names p = false := by simpa using out
    have left := (h r).opened.without p others
    rw [sessionLeft_lease]
    rw [LeaseEntry.without_of_not_names unnamed] at left ⊢
    exact left.sound (h r).waitersBehind

/-- The hold cause set replaced by one of assigned causes (R149, R154). -/
theorem Runs.changeHold {k : Prop} (s : State) (after : Half) (o : HoldOrigin) (q : Option Port)
    (assigned : s.hold &&& ~~~allCauses = 0 → after &&& ~~~allCauses = 0) : Runs k s (s.changeHold after o q) := by
  unfold State.changeHold
  split
  · exact .refl s
  · refine Runs.trans (t := { s with hold := after }) ?_ (.post _ _ _ _)
    exact
      { Runs.refl s with
        recipes := fun h => ⟨h.atMost, h.staged, h.current, h.zero⟩
        ports := .refl s
        config := fun _ => .refl _
        inner := id
        causes := fun h => ⟨assigned h.1, h.2⟩
        items := fun i => ⟨i.atMost, i.distinct, i.nonzero, i.next, i.refCounts⟩ }

/-- Causes that are taken out of a set of assigned causes leave one. -/
theorem and_masked {a m : Half} (b : Half) (h : a &&& ~~~m = 0) : (a &&& b) &&& ~~~m = 0 := by
  rw [BitVec.and_assoc, BitVec.and_comm b, ← BitVec.and_assoc, h]; exact BitVec.zero_and

theorem Runs.endHold {k : Prop} (s : State) (p : Port) (reason : EndReason) : Runs k s (s.endHold p reason) := by
  have first : Runs k s (s.changeHold (s.hold &&& ~~~causePort p) .sessionEnd (some p)) :=
    .changeHold s _ _ _ (and_masked _)
  unfold State.endHold
  dsimp only
  split
  · exact first.thenRaise causeSessionLost (by decide)
  · exact first

theorem Runs.orphanOrder {k : Prop} (s : State) (p : Port) (o : OrphanPolicy) : Runs k s (s.orphanOrder p o) := by
  cases o with
  | keep => exact .foldl _ (fun t h => .of_updAction t h _) _ _
  | cancel => exact .endActions _ _ _

/-- Steps 1 to 4 of R161. -/
def sessionGivenBack (s : State) (p : Port) (reason : EndReason) : State :=
  (((s.updPort p PortState.detach).endLeases p).orphanOrder p (s.port p).session.orphan).endHold p reason

theorem endSession_eq (s : State) (p : Port) (reason : EndReason) :
    s.endSession p reason =
      (s.sessionGivenBack p reason).setPort p (((s.sessionGivenBack p reason).port p).clearSession reason) := rfl

theorem sessionGivenBack_runs {k : Prop} (s : State) (p : Port) (reason : EndReason) :
    Runs k ((s.updPort p PortState.detach).endLeases p) (s.sessionGivenBack p reason) :=
  (Runs.orphanOrder _ _ _).trans (.endHold _ _ _)

theorem sessionGivenBack_ports (s : State) (p : Port) (reason : EndReason) :
    (s.sessionLeft p).PortsOffered (s.sessionGivenBack p reason) :=
  (s.endLeases_moved p).ports.trans (s.sessionGivenBack_runs (k := True) p reason).ports

theorem sessionGivenBack_detached (s : State) (p : Port) (reason : EndReason) :
    ((s.sessionGivenBack p reason).port p).session.attached = false := by
  rw [(s.sessionGivenBack_ports p reason).attached, sessionLeft_port_self, PortState.detach]

theorem endSession_queuesSound {s : State} (h : s.QueuesSound) (p : Port) (reason : EndReason) :
    (s.endSession p reason).QueuesSound := by
  intro q
  rw [endSession_eq, port_setPort]
  split
  · exact .of_empty rfl rfl
  · rename_i ne
    have offered := s.sessionGivenBack_ports p reason q
    rw [sessionLeft_port_other s ne] at offered
    exact (h q).offered offered

theorem endSession_leasesSound {s : State} (h : s.LeasesSound) (p : Port) (reason : EndReason) :
    (s.endSession p reason).LeasesSound := by
  have run := s.sessionGivenBack_runs (k := True) p reason
  intro r
  have sound : (s.sessionGivenBack p reason).LeaseSound ((s.sessionGivenBack p reason).lease r) :=
    (h.endLeases p).of_offered run.leases run.ports r
  rw [endSession_eq, setPort_lease]
  refine sound.of_attached fun q a => ?_
  have ne : q ≠ p := by
    rintro rfl
    simp [s.sessionGivenBack_detached q reason] at a
  rw [port_setPort_other _ _ ne]
  exact a

/-- The end of a session keeps what stands outside the port, the Lease Table and the hold cause set as endings keep it. -/
theorem endSession_runs_from {s : State} (p : Port) (reason : EndReason) :
    ∃ u : State, u = { s with leases := u.leases, ports := u.ports } ∧ Runs True u (s.sessionGivenBack p reason) := by
  refine ⟨_, ?_, s.sessionGivenBack_runs p reason⟩
  rw [(s.endLeases_moved p).rest]
  rfl

theorem KeepsSound.endSession (s : State) (p : Port) (reason : EndReason) : s.KeepsSound (s.endSession p reason) := by
  obtain ⟨u, from_s, run⟩ := s.endSession_runs_from p reason
  have last : (s.endSession p reason) = { s.sessionGivenBack p reason with ports := (s.endSession p reason).ports } := rfl
  exact
    { pending := by rw [last, run.pending, from_s]
      queues := fun h => endSession_queuesSound h p reason
      leases := fun h => endSession_leasesSound h p reason
      channels := fun h => by
        have : u.ChannelsSound := by rw [from_s]; exact h
        exact run.channelsSound this
      items := fun h => by
        have : u.ItemsSound := by rw [from_s]; exact ⟨h.atMost, h.distinct, h.nonzero, h.next, h.refCounts⟩
        have i := run.items this
        exact ⟨i.atMost, i.distinct, i.nonzero, i.next, i.refCounts⟩
      recipes := fun h => by
        have : u.RecipesSound := by rw [from_s]; exact ⟨h.atMost, h.staged, h.current, h.zero⟩
        have r := run.recipes this
        exact ⟨r.atMost, r.staged, r.current, r.zero⟩
      causes := fun h => by
        have : u.CausesSound := by rw [from_s]; exact h
        exact run.causes this
      oneEntry := fun h => by
        have : u.OneEntry := by rw [from_s]; exact h
        exact (KeepsSound.of_runs run).oneEntry this }

end State
end Sys2Proof.Machine
end

section
/-! PROOFS. The rule of each command, each event and each reset keeps the stated invariants (R26, R33, R34, R60, R64, R67, R137,
R149, R153, R166, R185, R187): `State.KeepsSound` for every step, and the statements that follow from it. -/
namespace Sys2Proof.Machine

/-! ### The forms in which a command's rule is written -/

/-- What holds of a refused command's state, and of the rule's own answer behind check 4, holds of the answer. -/
theorem withBlock_state {α : Type} {P : State → Prop} {s : State} {block : Option α} {k : α → Answer} (h : P s)
    (hk : ∀ b, block = some b → P (k b).state) : P (withBlock s block k).state := by
  cases block with
  | none => exact h
  | some b => exact hk b rfl

theorem require_state {P : State → Prop} {s : State} {ok : Bool} {r : Result} {k : Answer} (h : P s)
    (hk : ok = true → P k.state) : P (require s ok r k).state := by
  cases ok with
  | false => exact h
  | true => exact hk rfl

theorem requireChannel_state {P : State → Prop} {s : State} {p : Port} {c : Fin 16} {k : Answer} (h : P s)
    (hk : P k.state) : P (requireChannel s p c k).state := by
  unfold requireChannel
  split
  · exact hk
  · split <;> exact h

namespace State

/-! ### Sessions, queues and leases -/

theorem KeepsSound.attachBody (p : Port) (s : State) (params : List Byte) : s.KeepsSound (attachBody p s params).state := by
  refine require_state (.refl s) fun detached => withBlock_state (.refl s) fun b _ => ?_
  refine .of_setPort s p _ (fun h => ?_) fun _ => rfl
  obtain ⟨queue, lost⟩ := h.detachedEmpty (by simpa using detached)
  exact .of_empty queue lost

theorem KeepsSound.portResetBody (p : Port) (s : State) (params : List Byte) :
    s.KeepsSound (portResetBody p s params).state := by
  refine withBlock_state (.refl s) fun _ _ => ?_
  dsimp only
  split
  · exact .endSession s p .portReset
  · exact .of_setPort s p _ (fun _ => .of_empty rfl rfl) id

theorem ackCount_pos {queue : List Notice} {serial : Byte} {n : Nat} (h : ackCount queue serial = some n) :
    1 ≤ n ∧ queue ≠ [] := by
  obtain ⟨i, found, rfl⟩ := Option.map_eq_some_iff.1 h
  refine ⟨by omega, ?_⟩
  rintro rfl
  simp at found

/-- The removal of an ACK from a queue that is not empty keeps the queue sound (R187, R189). -/
theorem QueueSound.ack {ps : PortState} (h : ps.QueueSound) (lp : Position) {n : Nat} (pos : 1 ≤ n) (some_ : ps.queue ≠ []) :
    (ps.ack lp n).QueueSound := by
  have attached : ps.session.attached ≠ false := fun d => some_ (h.detachedEmpty d).1
  have bounded := h.bounded
  have dropped := PortState.serialsRun_drop _ _ n h.serials
  have length : (ps.queue.drop n).length ≤ 31 := by rw [List.length_drop]; omega
  unfold PortState.ack
  dsimp only
  split
  · rename_i lost
    exact ⟨length.trans (by omega), dropped, fun l => absurd lost l, fun d => absurd d attached⟩
  · refine ⟨?_, PortState.serialsRun_append _ _ _ dropped rfl, fun l => absurd rfl l, fun d => absurd d attached⟩
    simp only [PortState.enqueue, List.length_append, List.length_singleton]
    omega

theorem KeepsSound.ackBody (p : Port) (s : State) (params : List Byte) : s.KeepsSound (ackBody p s params).state := by
  refine withBlock_state (.refl s) fun serial _ => ?_
  dsimp only
  split
  · exact .refl s
  · rename_i n count
    obtain ⟨pos, some_⟩ := ackCount_pos count
    refine .of_setPort s p _ (fun h => QueueSound.ack h s.pos.lp pos some_) fun a => ?_
    unfold PortState.ack
    dsimp only
    split <;> exact a

/-- A granted request (R167). -/
theorem LeaseSound.hold {s : State} {e : LeaseEntry} (h : s.LeaseSound e) {p : Port} {k : LeaseKind}
    (unnamed : e.names p = false) (grantable : e.grantable k = true) (attached : (s.port p).session.attached = true) :
    s.LeaseSound { e with holders := e.holders ++ [(p, k)] } := by
  obtain ⟨noWaiters, compatible⟩ := by simpa [LeaseEntry.grantable] using grantable
  have absent : ∀ x ∈ e.holders ++ e.waiters, x.1 ≠ p := fun x m named => by
    have : e.names p = true := (e.names_iff p).2 ⟨x.2, by rwa [← named]⟩
    simp [this] at unnamed
  have joins : JoinsHolders k e.holders := (compatible_iff e k).1 compatible
  refine ⟨?_, joins.exclusiveAlone p, fun w => absurd noWaiters w, h.waitersFew, fun x m => ?_⟩
  · have each := h.oneEach
    rw [noWaiters, List.append_nil] at each ⊢
    rw [List.map_append, List.nodup_append]
    refine ⟨each, by simp, ?_⟩
    rintro _ m _ n rfl
    obtain ⟨x, held, rfl⟩ := List.mem_map.1 m
    exact absent x (by simp [held]) (by simpa using n)
  · rw [noWaiters, List.append_nil, List.mem_append, List.mem_singleton] at m
    obtain m | rfl := m
    · exact h.attached x (by simp [m])
    · exact attached

/-- A request that joins the wait list (R167): of three ports, one that holds and the caller leave one to wait before it. -/
theorem LeaseSound.wait {s : State} {e : LeaseEntry} (h : s.LeaseSound e) {p : Port} {k : LeaseKind}
    (unnamed : e.names p = false) (refused : e.grantable k = false) (attached : (s.port p).session.attached = true) :
    s.LeaseSound { e with waiters := e.waiters ++ [(p, k)] } := by
  have absent : p ∉ (e.holders ++ e.waiters).map Prod.fst := fun m => by
    obtain ⟨x, m, named⟩ := List.mem_map.1 m
    have : e.names p = true := (e.names_iff p).2 ⟨x.2, by rwa [← named]⟩
    simp [this] at unnamed
  have holder : e.holders ≠ [] := by
    by_cases waits : e.waiters = []
    · refine JoinsHolders.holder_of_not (k := k) fun joins => ?_
      have : e.grantable k = true := by
        rw [LeaseEntry.grantable, waits, (compatible_iff e k).2 joins]; rfl
      simp [this] at refused
    · exact h.waitersBehind waits
  have each : ((e.holders ++ (e.waiters ++ [(p, k)])).map Prod.fst).Nodup := by
    rw [← List.append_assoc, List.map_append, List.nodup_append]
    refine ⟨h.oneEach, by simp, ?_⟩
    rintro _ m _ n rfl
    exact absent ((List.mem_singleton.1 (by simpa using n)) ▸ m)
  refine ⟨each, h.exclusiveAlone, fun _ => holder, ?_, fun x m => ?_⟩
  · have three : ((e.holders ++ (e.waiters ++ [(p, k)])).map Prod.fst).length ≤ ports3.length :=
      (each.subperm fun q _ => by cases q <;> decide).length_le
    have := List.length_pos_iff.2 holder
    simp [ports3] at three ⊢
    omega
  · rw [← List.append_assoc, List.mem_append, List.mem_singleton] at m
    obtain m | rfl := m
    · exact h.attached x m
    · exact attached

theorem KeepsSound.of_updLease (s : State) (r : Fin 33) (f : LeaseEntry → LeaseEntry)
    (hf : s.LeasesSound → s.LeaseSound (f (s.lease r))) : s.KeepsSound (s.updLease r f) := by
  refine .of_leases rfl (.refl s) fun h q => ?_
  rw [lease_updLease]
  split
  · exact (hf h).of_attached fun _ => id
  · exact (h q).of_attached fun _ => id

theorem KeepsSound.leaseBody (p : Port) (s : State) (params : List Byte) (attached : (s.port p).session.attached = true) :
    s.KeepsSound (leaseBody p s params).state := by
  refine withBlock_state (.refl s) fun b _ => require_state (.refl s) fun unnamed => ?_
  have unnamed : (s.lease b.resource).names p = false := by simpa using unnamed
  split
  · rename_i grantable
    exact .of_updLease s b.resource (fun e => { e with holders := e.holders ++ [(p, b.kind)] }) fun h =>
      (h _).hold unnamed grantable attached
  · rename_i refused
    split
    · exact .of_updLease s b.resource (fun e => { e with waiters := e.waiters ++ [(p, b.kind)] }) fun h =>
        (h _).wait unnamed (by simpa using refused) attached
    · exact .refl s

theorem KeepsSound.releaseBody (p : Port) (s : State) (params : List Byte) :
    s.KeepsSound (releaseBody p s params).state := by
  refine withBlock_state (.refl s) fun r _ => require_state (.refl s) fun _ => ?_
  have moved := ((s.updLease r (fun e => e.without p)).runArbiter_arbitrates r).moved
  exact .of_leases (by dsimp only; rw [moved.rest]; rfl) moved.ports fun h => h.release p r

/-! ### The line, the inputs and the channels -/

theorem readLineBlock_mask {params : List Byte} {c : LineConfig} (h : readLineBlock params = some c) :
    c.holdMask &&& ~~~conditionCauses = 0 := by
  unfold readLineBlock at h
  split at h
  · simp only [Option.bind_eq_bind, Option.bind_eq_some_iff] at h
    obtain ⟨_, _, _, _, _, _, _, _, _, _, _, _, _, _, h⟩ := h
    split at h
    · cases h
    · rename_i inRange
      cases h
      simpa using (not_or.1 inRange).2
  · cases h

/-- What the writing of a line configuration changes. -/
theorem writeLine_settings (s : State) (c : LineConfig) :
    s.writeLine c = { s with line := c, pos := (s.writeLine c).pos, free := (s.writeLine c).free } := by
  obtain ⟨f, choice⟩ := s.choose_eq 2
  unfold writeLine chooseBool
  dsimp only
  rw [choice]
  split
  · split <;> rfl
  · split
    · rfl
    · split <;> rfl

theorem KeepsSound.of_choose (s : State) (n : Nat) : s.KeepsSound (s.choose n).2 := .of_runs (.of_choose s n)

theorem KeepsSound.configLineBody (p : Port) (s : State) (params : List Byte) :
    s.KeepsSound (configLineBody p s params).state := by
  refine withBlock_state (.refl s) fun c read => require_state (.refl s) fun _ => require_state (.refl s) fun _ => ?_
  dsimp only
  split
  · exact .of_choose s _
  · have written := s.writeLine_settings c
    refine .of_settings ?_ (fun _ => ?_) ?_
    · dsimp only; rw [written]
    · dsimp only; rw [written]; exact readLineBlock_mask read
    · dsimp only; rw [written]; exact id

theorem KeepsSound.setPositionBody (p : Port) (s : State) (params : List Byte) :
    s.KeepsSound (setPositionBody p s params).state := by
  refine withBlock_state (.refl s) fun v _ => require_state (.refl s) fun _ => require_state (.refl s) fun _ =>
    require_state (.refl s) fun _ => .of_settings rfl id fun h j k => ?_
  have role : ∀ i, ((s.presetPosition v).input i).role = (s.input i).role := fun i => by
    simp [presetPosition, State.input, Input.shiftCapture]
  rw [role, role]
  exact h j k

theorem KeepsSound.of_updInput (s : State) (k : Fin 8) (f : Input → Input)
    (role : s.OneEntry → (f (s.input k)).role = .entry → ∀ j, (s.input j).role = .entry → j = k) :
    s.KeepsSound (s.updInput k f) := by
  refine .of_settings rfl id fun h i j => ?_
  rw [input_updInput, input_updInput]
  split <;> split
  · intros; subst_vars; rfl
  · rename_i same _; exact fun a b => same.trans (role h a j b).symm
  · rename_i same; exact fun a b => (role h b i a).trans same.symm
  · exact h i j

theorem KeepsSound.of_updInput_same (s : State) (k : Fin 8) (f : Input → Input) (role : ∀ i, (f i).role = i.role) :
    s.KeepsSound (s.updInput k f) :=
  .of_updInput s k f fun h entry j ej => h j k ej (by rwa [role] at entry)

theorem KeepsSound.findPin (s : State) (k : Fin 8) : s.KeepsSound (s.findPin k) := by
  unfold State.findPin
  split
  · exact .refl s
  · dsimp only
    split
    · exact (KeepsSound.of_choose s 2).trans (.of_updInput_same _ _ _ fun _ => rfl)
    · exact .of_choose s 2

theorem KeepsSound.loadInput (s : State) (k : Fin 8) (old : Input) : s.KeepsSound (s.loadInput k old) := by
  unfold State.loadInput
  dsimp only
  split
  · split <;> exact (KeepsSound.of_choose s 2).trans (.of_updInput_same _ _ _ fun _ => rfl)
  · exact .of_updInput_same _ _ _ fun _ => rfl

theorem KeepsSound.takeEdge (s : State) (k : Fin 8) (x : Position) : s.KeepsSound (s.takeEdge k x) := by
  unfold State.takeEdge
  dsimp only
  split
  · exact .of_updInput_same _ _ _ fun _ => rfl
  · exact (KeepsSound.of_updInput_same s k
      (fun i => { i with accepted := !(s.input k).accepted, measurement := none }) fun _ => rfl).trans
      (.of_runs (.routeEdge _ _ _ _))

theorem KeepsSound.rerunInput (s : State) (k : Fin 8) (old : Input) : s.KeepsSound (s.rerunInput k old) := by
  unfold State.rerunInput
  dsimp only
  split
  · split
    · exact .refl s
    · exact .of_updInput_same _ _ _ fun _ => rfl
  · split
    · exact (KeepsSound.findPin s k).trans (.loadInput _ _ _)
    · split
      · exact .refl s
      · split
        · exact .refl s
        · split
          · exact .takeEdge _ _ _
          · exact .of_updInput_same _ _ _ fun _ => rfl

theorem entryElsewhere_iff (s : State) (k : Fin 8) :
    s.entryElsewhere k = true ↔ ∃ j, j ≠ k ∧ (s.input j).role = .entry := by
  simp [entryElsewhere]

theorem KeepsSound.configInputBody (p : Port) (s : State) (params : List Byte) :
    s.KeepsSound (configInputBody p s params).state := by
  refine withBlock_state (.refl s) fun b _ => require_state (.refl s) fun _ => require_state (.refl s) fun free =>
    require_state (.refl s) fun _ => require_state (.refl s) fun _ => ?_
  refine (KeepsSound.of_updInput s b.input _ fun _ entry j ej => ?_).trans (.rerunInput _ _ _)
  by_contra ne
  have entry : b.role = .entry := entry
  simp [entry, (s.entryElsewhere_iff b.input).2 ⟨j, ne, ej⟩] at free

theorem KeepsSound.configChannelBody (p : Port) (s : State) (params : List Byte) :
    s.KeepsSound (configChannelBody p s params).state := by
  refine withBlock_state (.refl s) fun b _ => require_state (.refl s) fun _ => ?_
  split
  · refine .of_stages rfl fun h c => ?_
    rw [channel_updChannel]
    split
    · exact h b.channel
    · exact h c
  · exact .refl s

/-! ### Recipes and the Stage Queue -/

theorem KeepsSound.writeRecipeBody (p : Port) (s : State) (params : List Byte) :
    s.KeepsSound (writeRecipeBody p s params).state := by
  refine withBlock_state (.refl s) fun b _ => require_state (.refl s) fun _ => require_state (.refl s) fun _ =>
    require_state (.refl s) fun _ => require_state (.refl s) fun _ => require_state (.refl s) fun _ =>
    .of_recipes rfl (fun i => ?_) fun h => ?_
  · rw [recipe_updRecipe]
    split
    · subst_vars; rfl
    · rfl
  · have valid : ∀ i, (s.recipe i).valid = true →
        ((s.updRecipe b.index fun r => { r with valid := true, body := b.body }).recipe i).valid = true := fun i v => by
      rw [recipe_updRecipe]; split <;> [rfl; exact v]
    exact ⟨h.atMost, fun e m => valid _ (h.staged e m), valid _ h.current, valid _ h.zero⟩

theorem not_recipeInUse_iff (s : State) (i : Fin 8) :
    s.recipeInUse i = false ↔
      s.recipes.current ≠ i ∧ (∀ e ∈ s.recipes.stage, e.recipe ≠ i) ∧ (s.recipe i).refCount = 0 := by
  simp [recipeInUse, stagedCount, and_assoc]

theorem KeepsSound.eraseRecipeBody (p : Port) (s : State) (params : List Byte) :
    s.KeepsSound (eraseRecipeBody p s params).state := by
  refine withBlock_state (.refl s) fun i read => require_state (.refl s) fun _ => require_state (.refl s) fun unused =>
    .of_recipes rfl (fun j => ?_) fun h => ?_
  · rw [recipe_updRecipe]
    split
    · subst_vars; rfl
    · rfl
  · have nonzero : i ≠ 0 := by simpa using (Option.filter_eq_some_iff.1 read).2
    obtain ⟨notCurrent, notStaged, -⟩ := (s.not_recipeInUse_iff i).1 (by simpa using unused)
    have valid : ∀ j, j ≠ i → (s.recipe j).valid = true →
        ((s.updRecipe i fun r => { r with valid := false, body := .empty }).recipe j).valid = true := fun j ne v => by
      rw [recipe_updRecipe, if_neg ne]; exact v
    exact ⟨h.atMost, fun e m => valid _ (notStaged e m) (h.staged e m), valid _ notCurrent h.current,
      valid _ nonzero.symm h.zero⟩

/-- The Stage Queue replaced by entries that may stand in it. -/
theorem KeepsSound.of_stage {s t : State} {q : List StageEntry} (e : t = { s with recipes := { s.recipes with stage := q } })
    (h : s.RecipesSound → q.length ≤ 2 ∧ ∀ x ∈ q, (s.recipe x.recipe).valid = true) : s.KeepsSound t := by
  subst e
  exact .of_recipes rfl (fun _ => rfl) fun r => ⟨(h r).1, (h r).2, r.current, r.zero⟩

theorem KeepsSound.stageRecipeBody (p : Port) (s : State) (params : List Byte) :
    s.KeepsSound (stageRecipeBody p s params).state := by
  refine withBlock_state (.refl s) fun b _ => require_state (.refl s) fun _ => require_state (.refl s) fun valid =>
    require_state (.refl s) fun room => require_state (.refl s) fun _ => .of_stage rfl fun h => ⟨?_, fun x m => ?_⟩
  · have : s.recipes.stage.length < 2 := by simpa using room
    rw [List.length_append, List.length_singleton]; omega
  · rw [List.mem_append, List.mem_singleton] at m
    obtain m | rfl := m
    · exact h.staged x m
    · exact valid

theorem KeepsSound.cancelStageBody (p : Port) (s : State) (params : List Byte) :
    s.KeepsSound (cancelStageBody p s params).state := by
  refine withBlock_state (.refl s) fun all _ => require_state (.refl s) fun _ => require_state (.refl s) fun _ => ?_
  dsimp only
  generalize hn : (List.drop _ _).length = n
  obtain ⟨f, choice⟩ := s.choose_eq n
  rw [choice]
  refine (KeepsSound.of_settings (t := { s with free := f }) rfl id id).trans (.of_stage rfl fun h => ?_)
  cases all with
  | true => exact ⟨by simp, by simp⟩
  | false =>
    exact ⟨(List.dropLast_sublist _).length_le.trans h.atMost, fun x m => h.staged x (List.dropLast_subset _ m)⟩

/-! ### Actions, items and verdicts -/

theorem Runs.takePost {k : Prop} (s : State) (p : Port) (b : PostBlock) (c : CondState) (point : Position)
    (displaced : List Handle) : Runs k s (s.takePost p b c point displaced).state := by
  unfold State.takePost
  split
  · exact .refl s
  · rename_i h t bound
    exact (Runs.displace s displaced).trans (.bindAction bound)

theorem Runs.conflictOrPost {k : Prop} (s : State) (p : Port) (b : PostBlock) (c : CondState) (point : Position) :
    Runs k s (s.conflictOrPost p b c point).state := by
  unfold State.conflictOrPost
  split
  · exact .takePost ..
  · split
    · exact .refl s
    · exact .takePost ..

theorem Runs.postActionBody {k : Prop} (p : Port) (s : State) (params : List Byte) :
    Runs k s (postActionBody p s params).state := by
  refine withBlock_state (.refl s) fun b _ => requireChannel_state (.refl s) ?_
  split
  · exact .refl s
  · exact require_state (.refl s) fun _ => require_state (.refl s) fun _ => require_state (.refl s) fun _ =>
      require_state (.refl s) fun _ => require_state (.refl s) fun _ => require_state (.refl s) fun _ =>
      .conflictOrPost ..

theorem Runs.cancelActionBody {k : Prop} (p : Port) (s : State) (params : List Byte) :
    Runs k s (cancelActionBody p s params).state := by
  refine withBlock_state (.refl s) fun h _ => ?_
  split
  · exact .refl s
  · exact require_state (.refl s) fun _ => .of_ends (.endAction _ _ _)

theorem Runs.clearChannelBody {k : Prop} (p : Port) (s : State) (params : List Byte) :
    Runs k s (clearChannelBody p s params).state :=
  withBlock_state (.refl s) fun _ _ => requireChannel_state (.refl s) (.endActions _ _ _)

theorem Runs.verdictBody {k : Prop} (p : Port) (s : State) (params : List Byte) :
    Runs k s (verdictBody p s params).state := by
  refine withBlock_state (.refl s) fun b _ => ?_
  split
  · exact .refl s
  · split
    · exact .refl s
    · unfold State.storeVerdict
      dsimp only
      split <;> exact .of_updItem _ _ _ (fun _ => rfl) fun _ => rfl
    · exact .refl s

theorem Runs.removeItemBody {k : Prop} (p : Port) (s : State) (params : List Byte) :
    Runs k s (removeItemBody p s params).state := by
  refine withBlock_state (.refl s) fun n _ => require_state (.refl s) fun _ => ?_
  split
  · exact .refl s
  · exact .of_ends (.takeOut _ _ _)

theorem Ends.purgeItem (s : State) (it : Item) : s.Ends (s.purgeItem it) :=
  (Ends.cutActions s _).trans (.removeRecord _ _ _)

/-- A pending trailing edge replaced (R35). -/
theorem Runs.of_trailing {k : Prop} (s : State) (x : Trailing) :
    Runs k s { s with items := { s.items with trailing := x } } :=
  { Runs.refl s with
    recipes := fun h => ⟨h.atMost, h.staged, h.current, h.zero⟩
    ports := .refl s
    config := fun _ => .refl _
    inner := id
    causes := id
    items := fun i => ⟨i.atMost, i.distinct, i.nonzero, i.next, i.refCounts⟩ }

theorem Runs.purge {k : Prop} (s : State) : Runs k s s.purge :=
  (Runs.of_ends (.foldl _ Ends.purgeItem _ _)).trans (.of_trailing _ _)

theorem Runs.purgeLineBody {k : Prop} (p : Port) (s : State) (params : List Byte) :
    Runs k s (purgeLineBody p s params).state :=
  withBlock_state (.refl s) fun _ _ => require_state (.refl s) fun _ => .purge s

theorem Runs.setHoldBody {k : Prop} (p : Port) (s : State) (params : List Byte) :
    Runs k s (setHoldBody p s params).state :=
  withBlock_state (.refl s) fun _ _ => .changeHold _ _ _ _ fun h => or_masked h (by cases p <;> decide)

theorem Runs.releaseHoldBody {k : Prop} (p : Port) (s : State) (params : List Byte) :
    Runs k s (releaseHoldBody p s params).state :=
  withBlock_state (.refl s) fun _ _ => require_state (.refl s) fun _ => .changeHold _ _ _ _ (and_masked _)

/-! ### The resets -/

/-- A state whose tables are empty meets every invariant that its ports, recipes, causes and inputs meet. -/
theorem KeepsSound.of_cleared {s t : State} (pending : t.pending = s.pending)
    (ports : ∀ p, (t.port p).queue = [] ∧ (t.port p).lost = 0) (leases : t.leases = Vector.replicate 33 ⟨[], []⟩)
    (channels : t.ChannelsSound) (items : t.items = .reset) (refCounts : ∀ i, (t.recipe i).refCount = 0)
    (recipes : s.RecipesSound → t.RecipesSound) (causes : s.CausesSound → t.CausesSound)
    (oneEntry : s.OneEntry → t.OneEntry) : s.KeepsSound t where
  pending := pending
  queues _ p := .of_empty (ports p).1 (ports p).2
  leases _ r := by
    have empty : t.lease r = ⟨[], []⟩ := by
      rw [State.lease, leases, Vector.get_eq_getElem, Vector.getElem_replicate]
    rw [empty]
    exact ⟨by simp, by simp, by simp, by simp, by simp⟩
  channels _ := channels
  items _ := ⟨by simp [items, ItemTable.reset], by simp [items, ItemTable.reset], by simp [items, ItemTable.reset],
    by simp [items, ItemTable.reset], fun i => by simp [items, ItemTable.reset, refCounts]⟩
  recipes := recipes
  causes := causes
  oneEntry := oneEntry

/-- A state with its filters and its count of open choices as they may be: the draws of a device reset (log 13). -/
theorem resetPhase_free (s : State) (x : Phase) : ∃ f, (s.resetPhase x).2 = { s with free := f } := by
  unfold resetPhase
  split
  · exact ⟨s.free, rfl⟩
  · exact s.choose_eq 2

theorem resetPosition_settings (s : State) :
    ∃ f, s.resetPosition = { s with pos := s.resetPosition.pos, free := f } := by
  obtain ⟨f, first⟩ := s.resetPhase_free s.pos.phaseA
  obtain ⟨g, second⟩ := (s.resetPhase s.pos.phaseA).2.resetPhase_free s.pos.phaseB
  refine ⟨g, ?_⟩
  unfold resetPosition
  dsimp only
  rw [second, first]

theorem deviceReset_eq (s : State) (p : Port) :
    s.deviceReset p =
      { s with
        pos := s.resetPosition.pos, free := s.resetPosition.free
        inputs := s.inputs.map Input.deviceReset
        items := .reset, recipes := s.recipes.deviceReset, actions := .reset
        channels := s.channels.map Channel.deviceReset
        hold := causeReset, leases := Vector.replicate 33 ⟨[], []⟩
        ports := (s.deviceReset p).ports } := by
  obtain ⟨f, settings⟩ := s.resetPosition_settings
  have free : s.resetPosition.free = f := by rw [settings]
  rw [free]
  unfold State.deviceReset
  dsimp only
  rw [settings]

theorem deviceReset_port (s : State) (p q : Port) :
    (s.deviceReset p).port q = (s.port q).deviceReset (p = q) := by
  cases q <;> rfl

theorem deviceReset_recipe (s : State) (p : Port) (i : Fin 8) :
    (s.deviceReset p).recipe i = { s.recipe i with refCount := 0 } := by
  rw [deviceReset_eq]
  simp [State.recipe, RecipeStore.deviceReset]

end State

theorem Input.deviceReset_role (i : Input) : i.deviceReset.role = i.role := by
  unfold Input.deviceReset; split <;> rfl

namespace State

theorem deviceReset_input (s : State) (p : Port) (k : Fin 8) :
    (s.deviceReset p).input k = (s.input k).deviceReset := by
  rw [deviceReset_eq]
  simp [State.input]

theorem deviceReset_channel (s : State) (p : Port) (c : Fin 16) :
    (s.deviceReset p).channel c = (s.channel c).deviceReset := by
  rw [deviceReset_eq]
  simp [State.channel]

theorem KeepsSound.deviceReset (s : State) (p : Port) : s.KeepsSound (s.deviceReset p) := by
  have whole := s.deviceReset_eq p
  refine .of_cleared (by rw [whole]) (fun q => ?_) (by rw [whole]) (fun c => ?_) (by rw [whole])
    (fun i => by rw [deviceReset_recipe]) (fun h => ?_) (fun h => ⟨?_, ?_⟩) fun h j k => ?_
  · rw [deviceReset_port]; exact ⟨rfl, rfl⟩
  · rw [deviceReset_channel]; exact ⟨rfl, rfl, rfl, rfl⟩
  · have valid : ∀ i, (s.recipe i).valid = true → ((s.deviceReset p).recipe i).valid = true := fun i v => by
      rw [deviceReset_recipe]; exact v
    have stage : (s.deviceReset p).recipes.stage = [] := by rw [whole]; rfl
    have current : (s.deviceReset p).recipes.current = s.recipes.current := by rw [whole]; rfl
    exact ⟨by simp [stage], by simp [stage], by rw [current]; exact valid _ h.current, valid _ h.zero⟩
  · have hold : (s.deviceReset p).hold = causeReset := by rw [whole]
    rw [hold]; decide
  · rw [whole]; exact h.2
  · rw [deviceReset_input, deviceReset_input, Input.deviceReset_role, Input.deviceReset_role]; exact h j k

theorem powerOn_recipe (s : State) (i : Fin 8) :
    s.powerOn.recipe i = if i = 0 then ⟨true, .empty, 0⟩ else ⟨false, .empty, 0⟩ := by
  have store : s.powerOn.recipe i = RecipeStore.reset.store.get i := rfl
  rw [store]
  clear store
  revert i
  decide

theorem powerOn_port (s : State) (p : Port) : s.powerOn.port p = .reset (s.port p).csnLow := by
  cases p <;> rfl

theorem powerOn_channel (s : State) (c : Fin 16) : s.powerOn.channel c = .reset := by
  simp [powerOn, State.channel, Vector.get_eq_getElem]

theorem powerOn_input (s : State) (k : Fin 8) : s.powerOn.input k = .reset (s.input k).pin := by
  simp [powerOn, State.input]

theorem KeepsSound.powerOn (s : State) : s.KeepsSound s.powerOn := by
  refine .of_cleared rfl (fun q => ?_) rfl (fun c => ?_) rfl (fun i => ?_) (fun _ => ?_)
    (fun _ => ⟨?_, ?_⟩) fun _ j k => ?_
  · rw [powerOn_port]; exact ⟨rfl, rfl⟩
  · rw [powerOn_channel]; exact ⟨rfl, rfl, rfl, rfl⟩
  · rw [powerOn_recipe]; split <;> rfl
  · exact ⟨Nat.zero_le 2, fun e m => absurd m List.not_mem_nil, by rw [powerOn_recipe]; rfl, by rw [powerOn_recipe]; rfl⟩
  · change causeReset &&& _ = 0; decide
  · change (0x0FF0 : Half) &&& _ = 0; decide
  · rw [powerOn_input]; intro entry; cases entry

theorem KeepsSound.resetPulse (s : State) (lowNs : Nat) : s.KeepsSound (s.resetPulse lowNs) := by
  unfold State.resetPulse
  split
  · exact .refl s
  · split
    · exact .powerOn s
    · dsimp only
      split
      · exact (KeepsSound.of_choose s 2).trans (.powerOn _)
      · exact .of_choose s 2

theorem KeepsSound.resetDeviceBody (p : Port) (s : State) (params : List Byte) :
    s.KeepsSound (resetDeviceBody p s params).state :=
  withBlock_state (.refl s) fun _ _ => require_state (.refl s) fun _ => .deviceReset s p

end State
end Sys2Proof.Machine
end

section
/-! PROOFS. Every command and event keeps the stated invariants of the queues, the leases, the channels, the items, the recipes,
the causes and the ENTRY input. -/
namespace Sys2Proof.Machine

namespace State

/-! ### The encoder (R1 to R11) -/

theorem settleGaps_channel (s : State) (c : Fin 16) : s.settleGaps.channel c = { s.channel c with gapFresh := false } := by
  simp [settleGaps, State.channel]

/-- What runs within a count, with the gaps that it marked settled (R137, log 15). -/
theorem KeepsSound.of_settled {s t : State} (run : Runs False s t) : s.KeepsSound t.settleGaps where
  pending := run.pending
  queues h p := (h p).offered (run.ports p)
  leases h := fun r => (h.of_offered run.leases run.ports r).of_attached fun _ => id
  channels h c := by
    rw [settleGaps_channel]
    exact (run.inner (fun c => (h c).inner) c).settled
  items h :=
    have i := run.items h
    ⟨i.atMost, i.distinct, i.nonzero, i.next, i.refCounts⟩
  recipes h :=
    have r := run.recipes h
    ⟨r.atMost, r.staged, r.current, r.zero⟩
  causes := run.causes
  oneEntry h := by
    have same : ∀ k, t.settleGaps.input k = s.input k := fun k => by
      change t.inputs.get k = s.inputs.get k
      rw [run.inputs]
    intro j k
    rw [same, same]
    exact h j k

/-- The state of a count before it acts on anything: the position has moved (R6, R9, R11). -/
def counted (s : State) (d : Direction) : State := { s with pos := s.pos.count d s.line.standstillTime }

theorem takeCount_eq (s : State) (d : Direction) :
    s.takeCount d = (State.runTasks (s.counted d).taskBound d (s.counted d)).settleGaps := rfl

theorem KeepsSound.takeCount (s : State) (d : Direction) : s.KeepsSound (s.takeCount d) :=
  (KeepsSound.of_settings (t := s.counted d) rfl id id).trans (.of_settled (.runTasks _ _ _))

theorem Runs.of_errorCount {k : Prop} (s : State) (n : Half) :
    Runs k s { s with pos := { s.pos with errorCount := n } } :=
  { Runs.refl s with
    recipes := fun h => ⟨h.atMost, h.staged, h.current, h.zero⟩
    ports := .refl s
    config := fun _ => .refl _
    inner := id
    causes := id
    items := fun i => ⟨i.atMost, i.distinct, i.nonzero, i.next, i.refCounts⟩ }

theorem Runs.illegalTransition {k : Prop} (s : State) : Runs k s s.illegalTransition :=
  ((Runs.of_errorCount s _).thenPost _ _ _).thenRaise causeEncoder (by decide)

theorem KeepsSound.decode (s : State) : s.KeepsSound s.decode := by
  have compared : s.KeepsSound
      { s with pos := { s.pos with refA := s.pos.phaseA.accepted, refB := s.pos.phaseB.accepted } } :=
    .of_settings rfl id id
  unfold State.decode
  dsimp only
  split
  · exact compared
  · exact compared.trans (.takeCount _ _)
  · split <;>
      exact ((compared.trans (.of_choose _ 2)).trans (.takeCount _ _)).trans (.takeCount _ _)
  · exact compared.trans (.of_runs (.illegalTransition _))

theorem KeepsSound.setPhases (s : State) (a b : Phase) : s.KeepsSound (s.setPhases a b) :=
  (KeepsSound.of_settings (t := { s with pos := { s.pos with phaseA := a, phaseB := b } }) rfl id id).trans (.decode _)

theorem KeepsSound.phaseChange (s : State) (a b : Bool) : s.KeepsSound (s.phaseChange a b) := by
  unfold State.phaseChange
  split
  · exact (KeepsSound.decode s).trans (.setPhases _ _ _)
  · exact .of_settings rfl id id

theorem KeepsSound.phaseExpiry (s : State) (a b : Bool) : s.KeepsSound (s.phaseExpiry a b) :=
  (KeepsSound.decode s).trans (.setPhases _ _ _)

theorem KeepsSound.standstill (s : State) : s.KeepsSound s.standstill := by
  unfold State.standstill
  split
  · exact .refl s
  · exact (KeepsSound.of_settings
      (t := { s with pos := { s.pos with motion := .still, standstillTimer := none } }) rfl id id).trans
        (.of_runs (.post _ _ _ _))

/-! ### The detect inputs (R18, R19) -/

theorem KeepsSound.pinChange (s : State) (k : Fin 8) (level : Bool) : s.KeepsSound (s.pinChange k level) := by
  have moved : s.KeepsSound (s.updInput k fun i => { i with pin := level }) := .of_updInput_same s k _ fun _ => rfl
  unfold State.pinChange
  dsimp only
  split
  · exact moved
  · split
    · exact moved.trans (.of_updInput_same _ _ _ fun _ => rfl)
    · split
      · exact moved.trans (.takeEdge _ _ _)
      · exact moved.trans (.of_updInput_same _ _ _ fun _ => rfl)

theorem KeepsSound.filterExpiry (s : State) (k : Fin 8) : s.KeepsSound (s.filterExpiry k) := by
  unfold State.filterExpiry
  split
  · split
    · exact .refl s
    · exact .takeEdge _ _ _
  · exact .refl s

/-! ### The other timers (R96, R140, R165) -/

theorem KeepsSound.windowExpiry (s : State) (i : Fin 256) : s.KeepsSound (s.windowExpiry i) := by
  unfold State.windowExpiry
  split
  · split
    · exact .of_ends (.endAction _ _ _)
    · exact .refl s
  · exact .refl s

theorem turnOn_stages (s : State) (c : Fin 16) (h : Handle) (d : Bool) :
    s.turnOn c h d = { s with channels := (s.turnOn c h d).channels, actions := (s.turnOn c h d).actions } := by
  rw [turnOn_eq]

theorem turnOns_stages (c : Fin 16) (d : Bool) (hs : List Handle) (s : State) :
    let t := hs.foldl (fun t h => t.turnOn c h d) s
    t = { s with channels := t.channels, actions := t.actions } :=
  foldl_related (fun s t : State => t = { s with channels := t.channels, actions := t.actions }) (fun _ => rfl)
    (fun s t u h1 h2 => by rw [h2, h1]) _ (fun s h => s.turnOn_stages c h d) hs s

theorem gapExpiry_stages (s : State) (c : Fin 16) :
    s.gapExpiry c = { s with channels := (s.gapExpiry c).channels, actions := (s.gapExpiry c).actions } := by
  unfold State.gapExpiry
  dsimp only
  split
  · rfl
  · rw [turnOns_stages]; rfl

theorem KeepsSound.gapExpiry (s : State) (c : Fin 16) : s.KeepsSound (s.gapExpiry c) :=
  .of_stages (s.gapExpiry_stages c) fun h => (Runs.gapExpiry (k := True) s c (h c).1).channelsSound h

theorem KeepsSound.keepaliveExpires (s : State) (p : Port) : s.KeepsSound (s.keepaliveExpires p) := by
  unfold State.keepaliveExpires
  split
  · exact .endSession s p .expired
  · exact .refl s

/-! ### RSTN and the transactions (R15, R178, R180, R184) -/

theorem KeepsSound.resetRise (s : State) : s.KeepsSound s.resetRise := by
  unfold State.resetRise
  split
  · exact .refl s
  · exact .of_settings rfl id id

theorem KeepsSound.csnFalls (s : State) (p : Port) : s.KeepsSound (s.csnFalls p) := by
  unfold State.csnFalls
  dsimp only
  split
  · exact .refl s
  · split <;> exact .of_bookkeeping s p _ rfl rfl rfl rfl

theorem KeepsSound.copySlot (s : State) (p : Port) : s.KeepsSound (s.copySlot p) := by
  unfold State.copySlot
  dsimp only
  split
  · exact .of_bookkeeping s p _ rfl rfl rfl rfl
  · exact .refl s

theorem KeepsSound.endRead (s : State) (p : Port) (clocked : Nat) : s.KeepsSound (s.endRead p clocked) := by
  unfold State.endRead
  dsimp only
  split
  · split <;> exact .of_bookkeeping s p _ rfl rfl rfl rfl
  · split
    · exact .of_bookkeeping s p _ rfl rfl rfl rfl
    · exact .refl s

theorem KeepsSound.endFrame (s : State) (p : Port) (bytes : List Byte) (partialByte : Bool) :
    s.KeepsSound (s.endFrame p bytes partialByte) := by
  unfold State.endFrame
  dsimp only
  split
  · split <;> exact .of_bookkeeping s p _ rfl rfl rfl rfl
  · split
    · exact .of_bookkeeping s p _ rfl rfl rfl rfl
    · exact .refl s

theorem KeepsSound.takeBadFrame (s : State) (p : Port) : s.KeepsSound (s.takeBadFrame p) := by
  unfold State.takeBadFrame
  split
  · exact .refl s
  · rename_i f rest _
    have taken : s.KeepsSound (s.updPort p fun ps => { ps with waiting := rest }) :=
      .of_bookkeeping s p _ rfl rfl rfl rfl
    dsimp only
    split
    · exact taken.trans (.placeReply _ _ _ _ _ _)
    · split
      · exact .refl s
      · exact taken.trans (.placeReply _ _ _ _ _ _)

/-! ### Every step -/

theorem KeepsSound.body (name : CommandName) (p : Port) (s : State) (params : List Byte)
    (attached : name = .lease → (s.port p).session.attached = true) : s.KeepsSound (name.body p s params).state := by
  cases name with
  | attach => exact .attachBody p s params
  | detach => exact withBlock_state (.refl s) fun _ _ => .endSession s p .detach
  | portReset => exact .portResetBody p s params
  | status | fetch | readPosition => exact withBlock_state (.refl s) fun _ _ => .refl s
  | ack => exact .ackBody p s params
  | lease => exact .leaseBody p s params (attached rfl)
  | release => exact .releaseBody p s params
  | configLine => exact .configLineBody p s params
  | configInput => exact .configInputBody p s params
  | configChannel => exact .configChannelBody p s params
  | writeRecipe => exact .writeRecipeBody p s params
  | eraseRecipe => exact .eraseRecipeBody p s params
  | readRecipe => exact withBlock_state (.refl s) fun _ _ => .of_settings rfl id id
  | stageRecipe => exact .stageRecipeBody p s params
  | cancelStage => exact .cancelStageBody p s params
  | postAction => exact .of_runs (.postActionBody p s params)
  | cancelAction => exact .of_runs (.cancelActionBody p s params)
  | clearChannel => exact .of_runs (.clearChannelBody p s params)
  | readChannel | listItems => exact withBlock_state (.refl s) fun _ _ => .refl s
  | verdict => exact .of_runs (.verdictBody p s params)
  | readItem =>
    refine withBlock_state (.refl s) fun n _ => ?_
    split <;> exact .refl s
  | removeItem => exact .of_runs (.removeItemBody p s params)
  | purgeLine => exact .of_runs (.purgeLineBody p s params)
  | setHold => exact .of_runs (.setHoldBody p s params)
  | releaseHold => exact .of_runs (.releaseHoldBody p s params)
  | setPosition => exact .setPositionBody p s params
  | resetDevice => exact .resetDeviceBody p s params

theorem KeepsSound.row (name : CommandName) (p : Port) (s : State) : s.KeepsSound (effect (name.row p) s) := by
  rw [effect_row]
  obtain same | ⟨code, seq, rest, refused⟩ | ⟨code, seq, params, rest, session, answered⟩ :=
    s.takeCommand_cases p name (!name.takenDetached) (name.body p)
  · rw [same]; exact .refl s
  · rw [refused]
    exact (KeepsSound.of_bookkeeping s p { s.port p with waiting := rest } rfl rfl rfl rfl).trans
      (.placeReply _ _ _ _ _ _)
  · rw [answered]
    refine (KeepsSound.taking s p rest).trans (.finish (.body name p _ params fun lease => ?_) _ _ _)
    rw [taking_port_self]
    exact (Session.heard_attached _).trans (session (by rw [lease]; rfl))

/-- Every command and event keeps the stated invariants and the queue of what waits to be taken. -/
theorem KeepsSound.effect (c : Instr) (s : State) : s.KeepsSound (effect c s) := by
  cases c using Instr.byRow with
  | row name p => exact .row name p s
  | unknownCommand p => exact .takeBadFrame s p
  | read p clocked => exact .endRead s p clocked
  | powerOnReset lowNs => exact .resetPulse s lowNs
  | encoderPhaseChange a b => exact .phaseChange s a b
  | encoderFilterExpiry a b => exact .phaseExpiry s a b
  | standstillTimerExpiry => exact .standstill s
  | rawTransition k level => exact .pinChange s k level
  | detectFilterExpiry k => exact .filterExpiry s k
  | windowTimerExpiry entry => exact .windowExpiry s entry
  | gapTimerExpiry c => exact .gapExpiry s c
  | keepaliveExpiry p => exact .keepaliveExpires s p
  | rstnRise => exact .resetRise s
  | csnFall p => exact .csnFalls s p
  | replySlotCopy p => exact .copySlot s p
  | commandFrameEnd p bytes partialByte => exact .endFrame s p bytes partialByte

/-- A predicate that does not look at the queue of what waits to be taken, and that every command and event keeps, is kept by
every step. -/
theorem step_keeps {P : State → Prop} (unqueued : ∀ (s : State) rest, P s → P { s with pending := rest })
    (kept : ∀ c s, P s → P (Machine.effect c s)) {s t : State} (h : P s) (stepped : step s = .next t) : P t := by
  obtain rfl | ⟨c, rest, -, rfl⟩ := step_cases stepped
  · exact h
  · exact kept c _ (unqueued s rest h)

theorem ItemsSound.unqueued {s : State} (h : s.ItemsSound) (rest : List Instr) :
    ({ s with pending := rest } : State).ItemsSound :=
  ⟨h.atMost, h.distinct, h.nonzero, h.next, h.refCounts⟩

theorem LeasesSound.unqueued {s : State} (h : s.LeasesSound) (rest : List Instr) :
    ({ s with pending := rest } : State).LeasesSound :=
  fun r => (h r).of_attached fun _ => id

theorem RecipesSound.unqueued {s : State} (h : s.RecipesSound) (rest : List Instr) :
    ({ s with pending := rest } : State).RecipesSound :=
  ⟨h.atMost, h.staged, h.current, h.zero⟩

end State

/-! ### The statements -/

/-- Settles O53: every change of a port is an offer, a removal by ACK, a clearing, or none of its notices. -/
theorem everyStepKeepsTheQueuesSound : Obligations.EveryStepKeepsTheQueuesSound := by
  unfold Obligations.EveryStepKeepsTheQueuesSound
  exact fun s t => State.step_keeps (fun _ _ => id) fun c s => (State.KeepsSound.effect c s).queues

/-- Settles O54: an entry changes at a grant, at a request that joins it and where a port leaves it, with the arbiter run behind. -/
theorem everyStepKeepsTheLeasesSound : Obligations.EveryStepKeepsTheLeasesSound := by
  unfold Obligations.EveryStepKeepsTheLeasesSound
  exact fun s t => State.step_keeps (fun _ rest h => h.unqueued rest) fun c s =>
    (State.KeepsSound.effect c s).leases

/-- Settles O55: within an event `Channel.Inner` holds, and with the gaps settled it is R137. -/
theorem everyStepKeepsTheChannelsSound : Obligations.EveryStepKeepsTheChannelsSound := by
  unfold Obligations.EveryStepKeepsTheChannelsSound
  exact fun s t => State.step_keeps (fun _ _ => id) fun c s => (State.KeepsSound.effect c s).channels

/-- Settles O56: items come by creation alone and go by removal alone, each with its recipe's reference count, and no recipe that
is named becomes invalid. -/
theorem everyStepKeepsItemsAndRecipesSound : Obligations.EveryStepKeepsItemsAndRecipesSound := by
  unfold Obligations.EveryStepKeepsItemsAndRecipesSound
  exact fun s t items recipes stepped =>
    ⟨State.step_keeps (fun _ rest h => h.unqueued rest) (fun c s => (State.KeepsSound.effect c s).items) items stepped,
      State.step_keeps (fun _ rest h => h.unqueued rest) (fun c s => (State.KeepsSound.effect c s).recipes) recipes stepped⟩

/-- Settles O58: CONFIG_INPUT refuses a second ENTRY input, and every raise, mask and configuration holds assigned causes. -/
theorem everyStepKeepsOneEntryAndItsCauses : Obligations.EveryStepKeepsOneEntryAndItsCauses := by
  unfold Obligations.EveryStepKeepsOneEntryAndItsCauses
  exact fun s t stepped =>
    ⟨fun h => State.step_keeps (fun _ _ => id) (fun c s => (State.KeepsSound.effect c s).oneEntry) h stepped,
      fun h => State.step_keeps (fun _ _ => id) (fun c s => (State.KeepsSound.effect c s).causes) h stepped⟩

/-- Settles O2: every command and event has an effect, which keeps the queue. -/
theorem everyCommandCompletesAndKeepsTheQueue : Obligations.EveryCommandCompletesAndKeepsTheQueue := by
  unfold Obligations.EveryCommandCompletesAndKeepsTheQueue
  exact fun c s => ⟨effect c s, exec_eq_effect c s, (State.KeepsSound.effect c s).pending⟩

end Sys2Proof.Machine
end

section
/-! PROOFS. What the points that a count reaches, the timers and the pins do (R9, R10, R18 to R25, R89 to R97, R110 to R113, R130,
R140), each from the law of the operation that does it; replies, conditions and the rise of RSTN (R15, R80, R183). -/
namespace Sys2Proof.Machine

/-! ### Points that a count reaches -/

/-- Settles O42: a decision point and a forced close are the closes of `closeAtDecision_reached` and `forceClose_closed`. -/
theorem decisionPointClosesTheSlot : Obligations.DecisionPointClosesTheSlot := by
  unfold Obligations.DecisionPointClosesTheSlot
  exact fun s d n it live => ⟨fun p => State.closeAtDecision_reached live p, State.forceClose_closed live⟩

namespace State

theorem startMoving_moved (s : State) (d : Direction) :
    s.startMoving d = { s with pos := { s.pos with motion := .moving }, ports := (s.startMoving d).ports } ∧
      s.Posted (s.startMoving d) .line 0 s.pos.lp (.lineMoving d) :=
  ⟨rfl, post_posted { s with pos := { s.pos with motion := .moving } } 0 s.pos.lp (.lineMoving d) rfl⟩

/-- The FIRING COUNTS actions of all channels, in the words of the claims (R100). -/
theorem firingCounts_eq (s : State) :
    s.firingCounts = (List.finRange 16).flatMap (fun c =>
      ((s.actionsOf (s.schedule c)).filter (fun a =>
        decide (a.state = .on ∨ a.state = .waitGap) && match a.width with
          | .counts _ => true
          | _ => false)).map Action.handle) := by
  have firing : ∀ a : Action, a.firing = decide (a.state = .on ∨ a.state = .waitGap) := fun a =>
    Bool.eq_iff_iff.2 ((firing_iff a).trans (decide_eq_true_iff).symm)
  unfold firingCounts
  simp only [firing] <;> rfl

theorem action?_congr {s t : State} (e : t.actions = s.actions) : t.action? = s.action? :=
  funext fun h => by unfold State.action? State.entry; rw [e]

theorem firingCounts_congr {s t : State} (e : t.actions = s.actions) : t.firingCounts = s.firingCounts := by
  simp only [firingCounts, actionsOf, State.schedule, action?_congr e, e]

theorem beginExcursion_began (s : State) : ∃ u v : State,
    u = { s with pos := { s.pos with excursion := true }, ports := u.ports } ∧
    s.Posted u .line 0 s.pos.lp (.reverseFault s.pos.hwp s.line.reverseAllowance) ∧
    u.HoldChanged v (if s.line.holdMask &&& causeReverse = 0 then s.hold else s.hold ||| causeReverse) .raised none ∧
    State.EndsInTurn .aborted s.firingCounts v s.beginExcursion := by
  let excursion : State := { s with pos := { s.pos with excursion := true } }
  let u := excursion.post 0 s.pos.lp (.reverseFault s.pos.hwp s.line.reverseAllowance)
  have raised := u.raiseHold_changed causeReverse
  refine ⟨u, u.raiseHold causeReverse, rfl, excursion.post_posted _ _ _ rfl, raised, ?_⟩
  have same : (u.raiseHold causeReverse).firingCounts = s.firingCounts :=
    firingCounts_congr (by rw [raised.1]; rfl)
  rw [← same]
  exact endActions_inTurn _ _ _

theorem applyStage_checked {s : State} {e : StageEntry} {rest : List StageEntry} (head : s.recipes.stage = e :: rest) :
    ∃ u, s.StageApplied u e rest ∧ State.StageChecked u s.applyStage.checkStageHead :=
  ⟨_, applyStage_applied head, checkStageHead_checked _⟩

end State

/-- Settles O49: each task of a count is the operation whose law says what it does. -/
theorem reachedPointsAct : Obligations.ReachedPointsAct := by
  unfold Obligations.ReachedPointsAct
  intro s d
  refine ⟨⟨_, rfl, s.startMoving_moved d⟩, ?_, fun n it live => ?_, fun n => s.exitHead_runs, fun e rest head => ?_⟩
  · obtain ⟨u, v, marked, posted, raised, ended⟩ := s.beginExcursion_began
    rw [s.firingCounts_eq] at ended
    exact ⟨u, v, marked, posted, raised, ended⟩
  · exact ⟨State.jamItem_reached live, fun k => State.doTask_missEnd live d k⟩
  · exact State.applyStage_checked head

/-- Settles O50: the handle names the action that the task acts on. -/
theorem firePointsAndWindowEndsAct : Obligations.FirePointsAndWindowEndsAct := by
  unfold Obligations.FirePointsAndWindowEndsAct
  intro s d h a names
  have named := State.names_iff.1 names
  refine ⟨?_, State.endWindow_ended named⟩
  rw [State.doTask, named, Option.elim_some]
  exact State.reachFire_reached named

/-! ### The pins of the detect inputs (R18 to R20) -/

theorem activeAt_eq_ite (l : ActiveLevel) (pin : Bool) : activeAt l pin = if l = .high then pin else !pin := by
  cases l <;> rfl

theorem State.updInput_updInput (s : State) (k : Fin 8) (f g : Input → Input) :
    (s.updInput k f).updInput k g = s.updInput k fun i => g (f i) := by
  simp [State.updInput]
  simp [State.input, Vector.get_eq_getElem]

theorem exec_rawTransition (k : Fin 8) (level : Bool) (s : State) :
    exec (.rawTransition k level) s = .next (s.pinChange k level) := rfl

/-- Settles O51: the clauses are the branches of `State.pinChange`; what a taken edge does is `takeEdge_taken`. -/
theorem rawTransitionStartsOrTakesTheEdge : Obligations.RawTransitionStartsOrTakesTheEdge := by
  unfold Obligations.RawTransitionStartsOrTakesTheEdge
  intro s k level
  have moved : (s.updInput k fun i => { i with pin := level }).input k = { s.input k with pin := level } := by
    rw [State.input_updInput, if_pos rfl]
  simp only [exec_rawTransition, State.pinChange, moved, Input.level, activeAt_eq_ite]
  refine ⟨fun still => ?_, fun on changed => ⟨fun back => ?_, fun away filter => ?_, fun away filter => ?_⟩⟩
  · rw [if_pos still]
  all_goals rw [if_neg (not_or.2 ⟨on, changed⟩)]
  · rw [if_pos back, State.updInput_updInput]
  · rw [if_neg away, if_neg filter, State.updInput_updInput]
  · rw [if_neg away, if_pos filter]
    exact ⟨_, rfl, State.takeEdge_taken _ _ _⟩

theorem exec_detectFilterExpiry (k : Fin 8) (s : State) :
    exec (.detectFilterExpiry k) s = .next (s.filterExpiry k) := rfl

/-- Settles O52: a measurement of an input that is not OFF ends in its edge. -/
theorem detectFilterExpiryTakesTheEdge : Obligations.DetectFilterExpiryTakesTheEdge := by
  unfold Obligations.DetectFilterExpiryTakesTheEdge
  intro s k
  rw [exec_detectFilterExpiry, State.filterExpiry]
  refine ⟨fun idle => ?_, fun m measuring on => ?_⟩
  · cases measuring : (s.input k).measurement with
    | none => rfl
    | some m =>
      have off : (s.input k).role = .off := idle.resolve_left (by rw [measuring]; exact Option.some_ne_none m)
      simp only [off, if_true]
  · simp only [measuring, if_neg on]
    exact ⟨_, rfl, State.takeEdge_taken _ _ _⟩

/-! ### Timers (R96, R140) -/

theorem exec_windowTimerExpiry (i : Fin 256) (s : State) :
    exec (.windowTimerExpiry i) s = .next (s.windowExpiry i) := rfl

/-- Settles O39: the action of the entry decides what its timer's end does. -/
theorem windowTimerExpiryEndsTheAction : Obligations.WindowTimerExpiryEndsTheAction := by
  unfold Obligations.WindowTimerExpiryEndsTheAction
  intro s i
  rw [exec_windowTimerExpiry, State.windowExpiry]
  refine ⟨fun a bound running => ?_, fun stopped => ?_⟩
  · simp only [bound, Option.isSome_iff_ne_none.2 running, if_true]
    exact ⟨_, State.endActions_inTurn .done [a.handle] s, rfl⟩
  · cases bound : (s.entry i).action with
    | none => rfl
    | some a => simp [stopped a bound]

namespace State

/-- What a change of the action that a handle names does to each pool entry. -/
theorem entry_updAction (s : State) (h : Handle) (f : Action → Action) (i : Fin 256) :
    (s.updAction h f).entry i = ⟨(s.entry i).generation, (s.entry i).action.map (fun a =>
      if (s.entry i).generation ++ BitVec.ofFin (w := 8) i = h then f a else a)⟩ := by
  have named := makeHandle_iff (s.entry i).generation i h
  unfold State.updAction
  dsimp only
  split
  · rename_i current
    rw [entry_setEntry]
    split
    · subst_vars
      simp [(named.2 ⟨current, rfl⟩).symm]
    · rename_i other
      simp [show ¬(s.entry i).generation ++ BitVec.ofFin (w := 8) i = h from fun e => other (named.1 e.symm).2]
  · rename_i stale
    have : ¬(s.entry i).generation ++ BitVec.ofFin (w := 8) i = h := fun e => by
      obtain ⟨generation, index⟩ := named.1 e.symm
      exact stale (by rw [← index, ← generation])
    simp [this]

theorem turnedOn_delayed (lp : Position) (a : Action) :
    turnedOn lp a true = { turnedOn lp a false with delayed := true } :=
  congrArg (fun d => { turnedOn lp a false with delayed := d }) (Bool.or_true a.delayed)

/-- What several turnings ON on one channel change (R140): each named action once, whatever the list repeats. -/
theorem turnOns_eq (c : Fin 16) (hs : List Handle) (s : State) (some_ : hs ≠ []) :
    let t := hs.foldl (fun t h => t.turnOn c h true) s
    t = { s with
      channels := s.channels.set c.val { s.channel c with onSet := (s.channel c).onSet ++ hs, out := .on }
      actions := { s.actions with pool := t.actions.pool } } ∧
    ∀ i, t.entry i = ⟨(s.entry i).generation, (s.entry i).action.map (fun a =>
      if (s.entry i).generation ++ BitVec.ofFin (w := 8) i ∈ hs then turnedOn s.pos.lp a true else a)⟩ := by
  induction hs generalizing s with
  | nil => exact absurd rfl some_
  | cons h rest ih =>
    have first := s.turnOn_eq c h true
    have entry : ∀ i, (s.turnOn c h true).entry i = ⟨(s.entry i).generation, (s.entry i).action.map (fun a =>
        if (s.entry i).generation ++ BitVec.ofFin (w := 8) i = h then turnedOn s.pos.lp a true else a)⟩ :=
      s.entry_updAction h _
    rw [List.foldl_cons]
    by_cases last : rest = []
    · subst last
      exact ⟨first, fun i => by simpa using entry i⟩
    · have pos : (s.turnOn c h true).pos = s.pos := by rw [first]
      have channel : (s.turnOn c h true).channel c =
          { s.channel c with onSet := (s.channel c).onSet ++ [h], out := .on } := turnOn_channel s c h true
      obtain ⟨whole, entries⟩ := ih (s.turnOn c h true) last
      generalize rest.foldl (fun t h => t.turnOn c h true) (s.turnOn c h true) = t at whole entries
      refine ⟨?_, fun i => ?_⟩
      · rw [whole, channel, first]
        simp
      · rw [entries, entry, pos]
        simp only [Option.map_map, List.mem_cons, PoolEntry.mk.injEq, true_and]
        congr 1
        funext a
        by_cases now : (s.entry i).generation ++ BitVec.ofFin (w := 8) i = h
        · simp [now, turnedOn]
        · simp [now]

end State

theorem exec_gapTimerExpiry (c : Fin 16) (s : State) : exec (.gapTimerExpiry c) s = .next (s.gapExpiry c) := rfl

/-- Settles O40: a stopped timer, an empty wait set, and the turning ON of the waiting actions in turn. -/
theorem gapTimerExpiryStartsTheWaitingActions : Obligations.GapTimerExpiryStartsTheWaitingActions := by
  unfold Obligations.GapTimerExpiryStartsTheWaitingActions
  intro s c
  dsimp only
  rw [exec_gapTimerExpiry, State.gapExpiry]
  refine ⟨fun stopped => ?_, fun running empty => ?_, fun running waiting => ?_⟩
  · rw [stopped]
  all_goals obtain ⟨gap, timer⟩ := Option.ne_none_iff_exists'.1 running
  · simp only [timer, empty, List.foldl_nil]
    congr 1
    simp only [State.updChannel]
    rw [← empty]
  · simp only [timer]
    obtain ⟨whole, entries⟩ := State.turnOns_eq c (s.channel c).waitSet
      (s.updChannel c fun ch => { ch with gapTimer := none, waitSet := [], out := .off }) waiting
    refine ⟨_, rfl, ?_, fun i => ?_⟩
    · rw [whole, State.channel_updChannel, if_pos rfl]
      simp [State.updChannel]
    · simp only [State.turnedOn_delayed] at entries
      exact entries i

/-! ### Replies (R183) -/

theorem PortState.unreadReply_eq_any (ps : PortState) : ps.unreadReply = ps.slot.any fun r => !r.read := by
  unfold PortState.unreadReply
  cases ps.slot <;> rfl

/-- The status byte sees of the slot the read and the overrun flag alone (R182). -/
theorem statusByte_congr {x y : PortState} (session : x.session = y.session) (queue : x.queue = y.queue)
    (lost : x.lost = y.lost) (read : x.slot.map Reply.read = y.slot.map Reply.read)
    (overrun : x.slot.map Reply.overrun = y.slot.map Reply.overrun) (hold : Bool) :
    statusByte x hold = statusByte y hold := by
  have unread : ∀ o : Option Reply, (o.any fun r => !r.read) = (o.map Reply.read).any (!·) := fun o => by cases o <;> rfl
  have overruns : ∀ o : Option Reply, o.any Reply.overrun = (o.map Reply.overrun).any id := fun o => by cases o <;> rfl
  rw [statusByte_eq_ofBoolListLE, statusByte_eq_ofBoolListLE, session, queue, lost, unread, unread, read, overruns, overruns,
    overrun]

/-- Settles O6: the placing writes the slot alone, and the status byte it carries sees no more of the slot than its flags. -/
theorem placedReplyReplacesTheSlot : Obligations.PlacedReplyReplacesTheSlot := by
  unfold Obligations.PlacedReplyReplacesTheSlot
  intro s p code seq r payload
  have port : (s.placeReply p code seq r payload).port p = (s.port p).placeReply (s.hold != 0) code seq r payload :=
    s.port_updPort_self p _
  refine ⟨?_, ?_⟩
  · rw [State.Replied, port, State.placeReply_hold, ← PortState.unreadReply_eq_any]
    simp only [PortState.placeReply, Option.some.injEq, Reply.mk.injEq, and_true]
    exact statusByte_congr rfl rfl rfl rfl rfl _
  · rw [port]; rfl

/-! ### Conditions (R80) -/

theorem decidePort_cases (x : Slot) (v : Verdict) :
    (decidePort x v = .holds ↔ ∃ code src, x = .closed v code src) ∧
      (decidePort x v = .fails ↔ ∃ w code src, w ≠ v ∧ x = .closed w code src) := by
  unfold decidePort
  split
  · rename_i w code src
    by_cases same : w = v <;> simp [same]
  · rename_i open_
    refine ⟨by simpa using fun code src => open_ v code src, by simpa using fun w _ code src => open_ w code src⟩

theorem Verdict.ne_iff (w : Verdict) : (w ≠ .accept ↔ w = .reject) ∧ (w ≠ .reject ↔ w = .accept) := by
  cases w <;> decide

/-- The state of a condition on all voters (R80): with a slot OPEN unresolved, and otherwise as one of them is CLOSED with
REJECT or not. -/
theorem decideAll_cases (slots : PerPort Slot) (x y : CondState) :
    (∃ q z, slots.get q = .opened z) ∧ decideAll slots x y = .unresolved ∨
    (∀ q z, slots.get q ≠ .opened z) ∧ (∃ q code src, slots.get q = .closed .reject code src) ∧
      decideAll slots x y = y ∨
    (∀ q z, slots.get q ≠ .opened z) ∧ (¬∃ q code src, slots.get q = .closed .reject code src) ∧
      decideAll slots x y = x := by
  unfold decideAll
  dsimp only
  by_cases opened : ∃ q z, slots.get q = .opened z
  · exact .inl ⟨opened, by rw [if_pos ((State.voterSlots_open slots).2 opened)]⟩
  · have none_open : ∀ q z, slots.get q ≠ .opened z := fun q z e => opened ⟨q, z, e⟩
    rw [if_neg (mt (State.voterSlots_open slots).1 opened)]
    have reject := State.anyReject_iff none_open
    by_cases rejected : ∃ q code src, slots.get q = .closed .reject code src
    · have all := reject.2 rejected
      exact .inr (.inl ⟨none_open, rejected, if_neg (by simpa using all)⟩)
    · have all := mt reject.1 rejected
      exact .inr (.inr ⟨none_open, rejected, if_pos (by simpa using all)⟩)

/-- A slot that is not OPEN is NONE or CLOSED with one of the two verdicts. -/
theorem Slot.closed_of_not_open {x : Slot} (h : ∀ z, x ≠ .opened z) :
    x = .absent ∨ (∃ code src, x = .closed .accept code src) ∨ ∃ code src, x = .closed .reject code src := by
  match x with
  | .absent => exact .inl rfl
  | .opened z => exact absurd rfl (h z)
  | .closed .accept code src => exact .inr (.inl ⟨code, src, rfl⟩)
  | .closed .reject code src => exact .inr (.inr ⟨code, src, rfl⟩)

/-- Settles O33: a port's condition is decided by its one slot, the two others by whether a slot is OPEN and whether one is
CLOSED with REJECT. -/
theorem conditionsAreDecidedFromTheSlots : Obligations.ConditionsAreDecidedFromTheSlots := by
  unfold Obligations.ConditionsAreDecidedFromTheSlots
  intro slots
  dsimp only
  refine ⟨rfl, fun q => ?_, ?_⟩
  · simp only [decideCondition, (decidePort_cases _ _).1, (decidePort_cases _ _).2, (Verdict.ne_iff _).1,
      (Verdict.ne_iff _).2, exists_and_left, exists_eq_left, true_and]
  · simp only [decideCondition]
    have all := decideAll_cases slots
    have excludes : ∀ q, slots.get q = .absent ∨ (∃ code src, slots.get q = .closed .accept code src) →
        ¬∃ code src, slots.get q = .closed .reject code src := by
      rintro q (e | ⟨code, src, e⟩) ⟨code', src', e'⟩ <;> simp [e] at e'
    have accepted_iff : (∀ q z, slots.get q ≠ .opened z) →
        ((∀ q, slots.get q = .absent ∨ ∃ code src, slots.get q = .closed .accept code src) ↔
          ¬∃ q code src, slots.get q = .closed .reject code src) := fun none_open =>
      ⟨fun accepted ⟨q, rejected⟩ => excludes q (accepted q) rejected, fun none_rejected q =>
        (or_assoc.2 (Slot.closed_of_not_open (none_open q))).resolve_right fun r => none_rejected ⟨q, r⟩⟩
    have open_excludes : (∃ q z, slots.get q = .opened z) →
        ¬∀ q, slots.get q = .absent ∨ (∃ code src, slots.get q = .closed .accept code src) ∨
          ∃ code src, slots.get q = .closed .reject code src := by
      rintro ⟨q, z, e⟩ closed
      obtain e' | ⟨_, _, e'⟩ | ⟨_, _, e'⟩ := closed q <;> simp [e] at e'
    have open_excludes_accepted : (∃ q z, slots.get q = .opened z) →
        ¬∀ q, slots.get q = .absent ∨ ∃ code src, slots.get q = .closed .accept code src := fun opened accepted =>
      open_excludes opened fun q => (accepted q).imp_right .inl
    refine ⟨?_, ?_, ?_, ?_⟩
    · obtain ⟨opened, e⟩ | ⟨none_open, rejected, e⟩ | ⟨none_open, rejected, e⟩ := all .holds .fails
      · simpa [e] using open_excludes_accepted opened
      · simp only [e, accepted_iff none_open, reduceCtorEq, false_iff, not_not]; exact rejected
      · simp only [e, accepted_iff none_open, true_iff]; exact rejected
    · obtain ⟨opened, e⟩ | ⟨none_open, rejected, e⟩ | ⟨none_open, rejected, e⟩ := all .holds .fails
      · simpa [e] using fun closed => absurd closed (open_excludes opened)
      · simpa only [e, true_iff] using ⟨fun q => Slot.closed_of_not_open (none_open q), rejected⟩
      · simpa only [e, reduceCtorEq, false_iff] using fun h => rejected h.2
    · obtain ⟨opened, e⟩ | ⟨none_open, rejected, e⟩ | ⟨none_open, rejected, e⟩ := all .fails .holds
      · simpa [e] using fun closed => absurd closed (open_excludes opened)
      · simpa only [e, true_iff] using ⟨fun q => Slot.closed_of_not_open (none_open q), rejected⟩
      · simpa only [e, reduceCtorEq, false_iff] using fun h => rejected h.2
    · obtain ⟨opened, e⟩ | ⟨none_open, rejected, e⟩ | ⟨none_open, rejected, e⟩ := all .fails .holds
      · simpa [e] using open_excludes_accepted opened
      · simp only [e, accepted_iff none_open, reduceCtorEq, false_iff, not_not]; exact rejected
      · simp only [e, accepted_iff none_open, true_iff]; exact rejected

/-! ### RSTN (R15, R195, R200) -/

theorem exec_powerOnReset (lowNs : Nat) (s : State) : exec (.powerOnReset lowNs) s = .next (s.resetPulse lowNs) := rfl

theorem exec_rstnRise (s : State) : exec .rstnRise s = .next s.resetRise := rfl

/-- Settles O26: the two bounds of R200 and the open choice between them. -/
theorem powerOnResetLeavesEveryBlockReset : Obligations.PowerOnResetLeavesEveryBlockReset := by
  unfold Obligations.PowerOnResetLeavesEveryBlockReset
  intro s lowNs
  rw [exec_powerOnReset, State.resetPulse]
  refine ⟨fun long => ?_, fun short => ?_, ?_⟩
  · rw [if_neg (by omega), if_pos long]; rfl
  · rw [if_pos short]
  · split
    · exact ⟨s.free, .inr rfl⟩
    · split
      · exact ⟨s.free, .inl rfl⟩
      · obtain ⟨f, choice⟩ := s.choose_eq 2
        refine ⟨f, ?_⟩
        unfold State.chooseBool
        dsimp only
        rw [choice]
        split
        · exact .inl rfl
        · exact .inr rfl

theorem State.powerOn_resetRise {s : State} (pending : s.pending = []) (free : s.free = 0)
    (a : s.pos.phaseA.raw = false) (b : s.pos.phaseB.raw = false) (pins : ∀ k, (s.input k).pin = false)
    (csn : ∀ p, (s.port p).csnLow = false) : s.powerOn.resetRise = State.reset := by
  have inputs : s.inputs.map (fun i => Input.reset i.pin) = Vector.replicate 8 (.reset false) :=
    Vector.ext fun k lt => by
      have pin : s.inputs[k].pin = false := pins ⟨k, lt⟩
      rw [Vector.getElem_map, Vector.getElem_replicate, pin]
  have csnA : s.ports.a.csnLow = false := csn .A
  have csnB : s.ports.b.csnLow = false := csn .B
  have csnC : s.ports.c.csnLow = false := csn .C
  simp only [State.powerOn, State.resetRise, Bool.false_eq_true, if_false, inputs, pending, free, a, b, csnA, csnB, csnC]
  rfl

/-- Settles O27: the rise loads the encoder, and behind a power-on reset nothing but the pins and the model's own fields could
differ from `State.reset`. -/
theorem rstnRiseLoadsTheEncoder : Obligations.RstnRiseLoadsTheEncoder := by
  unfold Obligations.RstnRiseLoadsTheEncoder
  refine ⟨fun s low => ?_, fun s pending free a b pins csn => ⟨s.powerOn, ?_, ?_⟩, ?_⟩
  · rw [exec_rstnRise, State.resetRise, if_neg (by rw [low]; exact Bool.false_ne_true)]; rfl
  · rw [exec_powerOnReset]; rfl
  · rw [exec_rstnRise, State.powerOn_resetRise pending free a b pins csn]
  · intro p; cases p <;> rfl

end Sys2Proof.Machine
end

section
/-! PROOFS. The Action Store as it stands inside an event (R76, R78 to R80, R136): the invariant of the claims with two
relaxations, and what keeps it, one lemma for each relation of the claims that changes the store. -/
namespace Sys2Proof.Machine

/-- R76 of the pool and the free list. -/
structure State.PoolSound (s : State) : Prop where
  ownHandle : ∀ i a, (s.entry i).action = some a → a.handle = (s.entry i).generation ++ BitVec.ofFin (w := 8) i
  generations : ∀ i, (s.entry i).generation ≠ 0
  freeOnce : s.actions.freeList.Nodup
  free : ∀ i, i ∈ s.actions.freeList ↔ (s.entry i).action = none

/-- The action of `x` does not stand in a later part of a schedule than that of `y` (R79). -/
def State.NotAfter (s : State) (x y : Handle) : Prop :=
  ∀ a b, s.action? x = some a → s.action? y = some b → a.state.part ≤ b.state.part

/-- The start position, the window timer and the hand-over point stand as the sub-state says (R78, R92). -/
def Action.Stamped (a : Action) : Prop :=
  (a.start ≠ none ↔ a.state = .on) ∧ (a.timer ≠ none → a.state = .on) ∧
    (a.handOver ≠ none ↔ a.state = .on ∨ a.state = .waitGap)

/-- The Action Store inside an event: `State.ActionsSound`, except that the condition of an action that `fails` names may be
FALSE, until the event ends it SKIPPED, and that the action list of a LEAVING item that `emptied` names may be empty, until
the event takes the item out. -/
structure State.StoreSound (s : State) (fails : Handle → Prop) (emptied : Half → Prop) : Prop where
  pool : s.PoolSound
  scheduledOnce : ∀ c, (s.schedule c).Nodup
  scheduled : ∀ c h, h ∈ s.schedule c ↔ ∃ a, s.action? h = some a ∧ a.channel = c
  parts : ∀ c, (s.schedule c).Pairwise s.NotAfter
  distinct : (s.items.live.map Item.number).Nodup
  listedOnce : ∀ it ∈ s.items.live, it.actions.Nodup ∧ it.actions.length ≤ 16
  listed : ∀ it ∈ s.items.live, ∀ h, h ∈ it.actions ↔ ∃ a, s.action? h = some a ∧ a.item = it.number
  itemLives : ∀ h a, s.action? h = some a → ∃ it ∈ s.items.live, it.number = a.item
  setsOnce : ∀ c, (s.channel c).onSet.Nodup ∧ (s.channel c).waitSet.Nodup
  onSet : ∀ c h, h ∈ (s.channel c).onSet ↔ ∃ a, s.action? h = some a ∧ a.channel = c ∧ a.state = .on
  waitSet : ∀ c h, h ∈ (s.channel c).waitSet ↔ ∃ a, s.action? h = some a ∧ a.channel = c ∧ a.state = .waitGap
  falseOnly : ∀ h a, s.action? h = some a → a.condState = .fails → fails h
  stamped : ∀ h a, s.action? h = some a → a.Stamped
  leavingFires : ∀ it ∈ s.items.live, it.state = .leaving →
    ∀ h a, s.action? h = some a → a.item = it.number → a.state = .on ∨ a.state = .waitGap
  leavingHolds : ∀ it ∈ s.items.live, it.state = .leaving → it.actions = [] → emptied it.number
  templates : ∀ i, (s.recipe i).body.templates.length ≤ 8

namespace State

variable {s t : State} {fails : Handle → Prop} {emptied : Half → Prop}

theorem ActionsSound.store (sound : s.ActionsSound) (items : s.ItemsSound) :
    s.StoreSound (fun _ => False) (fun _ => False) where
  pool := ⟨sound.ownHandle, sound.generations, sound.freeOnce, sound.free⟩
  scheduledOnce := sound.scheduledOnce
  scheduled := by simpa only [names_iff] using sound.scheduled
  parts := by unfold State.NotAfter; simpa only [names_iff] using sound.parts
  distinct := items.distinct
  listedOnce := sound.listedOnce
  listed := by simpa only [names_iff] using sound.listed
  itemLives := by simpa only [names_iff] using sound.itemLives
  setsOnce := sound.setsOnce
  onSet := by simpa only [names_iff] using sound.onSet
  waitSet := by simpa only [names_iff] using sound.waitSet
  falseOnly := by simpa only [names_iff] using sound.notFalse
  stamped := by unfold Action.Stamped; simpa only [names_iff] using sound.started
  leavingFires := fun it live leaving => by simpa only [names_iff] using (sound.leaving it live leaving).2
  leavingHolds := fun it live leaving empty => (sound.leaving it live leaving).1 empty
  templates := sound.templates

theorem StoreSound.actionsSound (sound : s.StoreSound (fun _ => False) (fun _ => False)) : s.ActionsSound where
  ownHandle := sound.pool.ownHandle
  generations := sound.pool.generations
  freeOnce := sound.pool.freeOnce
  free := sound.pool.free
  scheduledOnce := sound.scheduledOnce
  scheduled := by simpa only [names_iff] using sound.scheduled
  parts := fun c => (sound.parts c).imp fun notAfter a b => by simpa only [names_iff] using notAfter a b
  listedOnce := sound.listedOnce
  listed := by simpa only [names_iff] using sound.listed
  itemLives := by simpa only [names_iff] using sound.itemLives
  setsOnce := sound.setsOnce
  onSet := by simpa only [names_iff] using sound.onSet
  waitSet := by simpa only [names_iff] using sound.waitSet
  notFalse := by simpa only [names_iff] using sound.falseOnly
  started := fun h a named => sound.stamped h a (names_iff.1 named)
  leaving := fun it live leaving =>
    ⟨sound.leavingHolds it live leaving, by simpa only [names_iff] using sound.leavingFires it live leaving⟩
  templates := sound.templates

theorem StoreSound.mono (sound : s.StoreSound fails emptied) {fails' : Handle → Prop} {emptied' : Half → Prop}
    (weaker : ∀ h, fails h → fails' h) (more : ∀ n, emptied n → emptied' n) : s.StoreSound fails' emptied' :=
  { sound with
    falseOnly := fun h a named false_ => weaker h (sound.falseOnly h a named false_)
    leavingHolds := fun it live leaving empty => more _ (sound.leavingHolds it live leaving empty) }

/-- A handle that names no action need not be excepted. -/
theorem StoreSound.drop_stale (sound : s.StoreSound fails emptied) {h : Handle} (stale : s.action? h = none) :
    s.StoreSound (fun g => fails g ∧ g ≠ h) emptied :=
  { sound with
    falseOnly := fun g a named false_ => ⟨sound.falseOnly g a named false_, fun e => by simp [e, stale] at named⟩ }

/-! ### What stands in the store -/

theorem PoolSound.handle (pool : s.PoolSound) {h : Handle} {a : Action} (named : s.action? h = some a) : a.handle = h := by
  obtain ⟨i, e, b⟩ := names_iff.2 named
  rw [pool.ownHandle i a b, e]

/-- Two live items with one number are one item. -/
theorem StoreSound.item_unique (sound : s.StoreSound fails emptied) {x y : Item} (hx : x ∈ s.items.live)
    (hy : y ∈ s.items.live) (e : x.number = y.number) : x = y :=
  List.inj_on_of_nodup_map sound.distinct hx hy e

theorem StoreSound.item_of_mem (sound : s.StoreSound fails emptied) {it : Item} (live : it ∈ s.items.live) :
    s.item? it.number = some it := by
  cases found : s.item? it.number with
  | none => simpa using List.find?_eq_none.1 found it live
  | some x => rw [sound.item_unique (mem_of_item found) live (number_of_item found)]

/-- An item without actions is the item of no bound action. -/
theorem StoreSound.no_action (sound : s.StoreSound fails emptied) {it : Item} (live : it ∈ s.items.live)
    (empty : it.actions = []) {h : Handle} {a : Action} (named : s.action? h = some a) : a.item ≠ it.number := fun e => by
  have listed := (sound.listed it live h).2 ⟨a, named, e⟩
  simp [empty] at listed

/-- An action stands in the ON set of its channel or in its wait set, never in both. -/
theorem StoreSound.sets_disjoint (sound : s.StoreSound fails emptied) {c : Fin 16} {h : Handle}
    (on : h ∈ (s.channel c).onSet) : h ∉ (s.channel c).waitSet := fun waits => by
  obtain ⟨a, named, -, state⟩ := (sound.onSet c h).1 on
  obtain ⟨b, named', -, state'⟩ := (sound.waitSet c h).1 waits
  obtain rfl := Option.some.inj (named.symm.trans named')
  rw [state] at state'
  cases state'

/-! ### Changes that leave the pool alone -/

/-- What the store sees of the Item Table: the numbers, the action lists, and which items are LEAVING; an item may stop to be
LEAVING. -/
structure SameLists (s t : State) : Prop where
  numbers : t.items.live.map Item.number = s.items.live.map Item.number
  lists : ∀ y ∈ t.items.live, ∃ x ∈ s.items.live, y.number = x.number ∧ y.actions = x.actions ∧
    (y.state = .leaving → x.state = .leaving)

theorem SameLists.of_eq (e : t.items.live = s.items.live) : s.SameLists t :=
  ⟨by rw [e], fun y live => ⟨y, e ▸ live, rfl, rfl, id⟩⟩

theorem SameLists.of_updItem (s : State) (n : Half) (f : Item → Item) (number : ∀ x, (f x).number = x.number)
    (actions : ∀ x, (f x).actions = x.actions) (state : ∀ x, (f x).state = .leaving → x.state = .leaving) :
    s.SameLists (s.updItem n f) := by
  refine ⟨updItem_numbers s n f number, fun y live => ?_⟩
  obtain ⟨x, hx, rfl⟩ := mem_updItem_live live
  refine ⟨x, hx, ?_⟩
  split
  · exact ⟨number x, actions x, state x⟩
  · exact ⟨rfl, rfl, id⟩

theorem SameLists.number_lives (same : s.SameLists t) {n : Half} (live : ∃ it ∈ s.items.live, it.number = n) :
    ∃ it ∈ t.items.live, it.number = n :=
  List.mem_map.1 (same.numbers ▸ List.mem_map.2 live)

/-- A change that leaves the store, the sets of the channels and the action lists of the items. -/
theorem StoreSound.congr (sound : s.StoreSound fails emptied) (actions : t.actions = s.actions)
    (sets : ∀ c, (t.channel c).onSet = (s.channel c).onSet ∧ (t.channel c).waitSet = (s.channel c).waitSet)
    (items : s.SameLists t) (templates : ∀ i, (t.recipe i).body.templates.length ≤ 8) :
    t.StoreSound fails emptied := by
  have entry : ∀ i, t.entry i = s.entry i := fun i => by simp only [State.entry, actions]
  have action : t.action? = s.action? := action?_congr actions
  have schedule : ∀ c, t.schedule c = s.schedule c := fun c => by simp only [State.schedule, actions]
  have notAfter : t.NotAfter = s.NotAfter := by unfold State.NotAfter; rw [action]
  constructor
  case pool =>
    obtain ⟨own, generations, once, free⟩ := sound.pool
    constructor <;> simpa only [entry, actions]
  case leavingFires =>
    intro y live leaving h a named item
    obtain ⟨x, hx, number, -, state⟩ := items.lists y live
    exact sound.leavingFires x hx (state leaving) h a (action ▸ named) (item.trans number)
  case leavingHolds =>
    intro y live leaving empty
    obtain ⟨x, hx, number, list, state⟩ := items.lists y live
    exact number ▸ sound.leavingHolds x hx (state leaving) (list ▸ empty)
  case listedOnce =>
    intro y live
    obtain ⟨x, hx, -, list, -⟩ := items.lists y live
    exact list ▸ sound.listedOnce x hx
  case listed =>
    intro y live h
    obtain ⟨x, hx, number, list, -⟩ := items.lists y live
    rw [list, number, action]
    exact sound.listed x hx h
  case itemLives =>
    rw [action]
    exact fun h a named => items.number_lives (sound.itemLives h a named)
  case distinct => rw [items.numbers]; exact sound.distinct
  case templates => exact templates
  all_goals simp only [schedule, action, sets, notAfter]
  · exact sound.scheduledOnce
  · exact sound.scheduled
  · exact sound.parts
  · exact sound.setsOnce
  · exact sound.onSet
  · exact sound.waitSet
  · exact sound.falseOnly
  · exact sound.stamped

/-! ### One record changed -/

theorem Recorded.action {h : Handle} {a b : Action} (r : s.Recorded t h b) (named : s.action? h = some a) (g : Handle) :
    t.action? g = if g = h then some b else s.action? g := by
  split
  · subst_vars; exact r.action_self named
  · exact r.action_other named ‹_›

theorem PoolSound.recorded {h : Handle} {a b : Action} (pool : s.PoolSound) (named : s.action? h = some a)
    (r : s.Recorded t h b) (handle : b.handle = a.handle) (free : t.actions.freeList = s.actions.freeList) :
    t.PoolSound := by
  have bound : (s.entry (handleIndex h)).action = some a := by
    unfold State.action? at named
    dsimp only at named
    split at named
    · exact named
    · cases named
  refine ⟨fun i x e => ?_, fun i => ?_, free ▸ pool.freeOnce, fun i => ?_⟩
  · rw [r i] at e ⊢
    split at e
    · rename_i here
      subst here
      obtain rfl := Option.some.inj e
      rw [if_pos rfl]
      exact handle.trans (pool.ownHandle _ a bound)
    · rename_i other
      rw [if_neg other]
      exact pool.ownHandle i x e
  · rw [r i]
    split
    · exact pool.generations i
    · exact pool.generations i
  · rw [free, pool.free, r i]
    split
    · subst_vars; simp [bound]
    · rfl

/-- A change of records, schedules and sets that leaves each action with its item and its channel: what is left to show is
the phase of each action (R78 to R80, R136). -/
theorem StoreSound.rephased (sound : s.StoreSound fails emptied) (pool : t.PoolSound)
    (places : ∀ h, (t.action? h).map (fun a => (a.item, a.channel)) = (s.action? h).map (fun a => (a.item, a.channel)))
    (once : ∀ c, (t.schedule c).Nodup) (same : ∀ c h, h ∈ t.schedule c ↔ h ∈ s.schedule c)
    (parts : ∀ c, (t.schedule c).Pairwise t.NotAfter) (items : t.items.live = s.items.live)
    (setsOnce : ∀ c, (t.channel c).onSet.Nodup ∧ (t.channel c).waitSet.Nodup)
    (onSet : ∀ c h, h ∈ (t.channel c).onSet ↔ ∃ a, t.action? h = some a ∧ a.channel = c ∧ a.state = .on)
    (waitSet : ∀ c h, h ∈ (t.channel c).waitSet ↔ ∃ a, t.action? h = some a ∧ a.channel = c ∧ a.state = .waitGap)
    {fails' : Handle → Prop} (falseOnly : ∀ h a, t.action? h = some a → a.condState = .fails → fails' h)
    (stamped : ∀ h a, t.action? h = some a → a.Stamped)
    (fires : ∀ h a b, s.action? h = some a → t.action? h = some b → a.state = .on ∨ a.state = .waitGap →
      b.state = .on ∨ b.state = .waitGap)
    (recipes : t.recipes = s.recipes) : t.StoreSound fails' emptied := by
  have back : ∀ h b, t.action? h = some b → ∃ a, s.action? h = some a ∧ b.item = a.item ∧ b.channel = a.channel := by
    intro h b named
    obtain ⟨a, e, place⟩ := Option.map_eq_some_iff.1 ((places h).symm.trans (by rw [named]; rfl))
    exact ⟨a, e, by simp_all⟩
  have forth : ∀ h a, s.action? h = some a → ∃ b, t.action? h = some b ∧ b.item = a.item ∧ b.channel = a.channel := by
    intro h a named
    obtain ⟨b, e, place⟩ := Option.map_eq_some_iff.1 ((places h).trans (by rw [named]; rfl))
    exact ⟨b, e, by simp_all⟩
  refine
    { pool, scheduledOnce := once, parts, setsOnce, onSet, waitSet, falseOnly, stamped
      distinct := items ▸ sound.distinct
      listedOnce := items ▸ sound.listedOnce
      leavingHolds := items ▸ sound.leavingHolds
      templates := fun i => by rw [State.recipe, recipes]; exact sound.templates i
      scheduled := fun c h => ?_, listed := fun it live h => ?_, itemLives := fun h b named => ?_
      leavingFires := fun it live leaving h b named item => ?_ }
  · rw [same, sound.scheduled]
    constructor
    · rintro ⟨a, named, channel⟩
      obtain ⟨b, named', -, e⟩ := forth h a named
      exact ⟨b, named', e.trans channel⟩
    · rintro ⟨b, named, channel⟩
      obtain ⟨a, named', -, e⟩ := back h b named
      exact ⟨a, named', e.symm.trans channel⟩
  · rw [sound.listed it (items ▸ live)]
    constructor
    · rintro ⟨a, named, item⟩
      obtain ⟨b, named', e, -⟩ := forth h a named
      exact ⟨b, named', e.trans item⟩
    · rintro ⟨b, named, item⟩
      obtain ⟨a, named', e, -⟩ := back h b named
      exact ⟨a, named', e.symm.trans item⟩
  · obtain ⟨a, named', e, -⟩ := back h b named
    rw [items, e]
    exact sound.itemLives h a named'
  · obtain ⟨a, named', e, -⟩ := back h b named
    exact fires h a b named' named (sound.leavingFires it (items ▸ live) leaving h a named' (e.symm.trans item))

end State
end Sys2Proof.Machine
end

section
/-! PROOFS. Endings and removals keep the Action Store (R44 to R47, R93), each through the relation of the claims that says
what it does. -/
namespace Sys2Proof.Machine

theorem nextGeneration_ne_zero (g : Byte) : (if g = 255 then 1 else g + 1) ≠ 0 := by
  split
  · decide
  · bv_omega

theorem filter_ne_self {xs : List Handle} {h : Handle} (out : h ∉ xs) : xs.filter (fun x => x ≠ h) = xs :=
  List.filter_eq_self.2 fun x m => by simpa using fun e : x = h => out (e ▸ m)

/-- What leaving a set does to the two sets, for an action that does not stand in both (R139). -/
theorem Channel.Left.sets {a b : Channel} {h : Handle} (left : a.Left b h) (apart : h ∈ a.onSet → h ∉ a.waitSet) :
    b.onSet = a.onSet.filter (fun x => x ≠ h) ∧ b.waitSet = a.waitSet.filter (fun x => x ≠ h) := by
  by_cases on : h ∈ a.onSet
  · rw [filter_ne_self (apart on)]
    by_cases more : a.onSet.filter (fun x => x ≠ h) = []
    · by_cases gap : a.minGap = 0
      · rw [left.off on more gap, more]; exact ⟨rfl, rfl⟩
      · rw [left.gap on more gap, more]; exact ⟨rfl, rfl⟩
    · rw [left.others on more]; exact ⟨rfl, rfl⟩
  · rw [left.waiting on, filter_ne_self on]; exact ⟨rfl, rfl⟩

namespace State

variable {s t : State} {fails : Handle → Prop} {emptied : Half → Prop}

/-! ### An ending (R93) -/

theorem entry_of_action {h : Handle} {a : Action} (named : s.action? h = some a) :
    (s.entry (handleIndex h)).generation = handleGeneration h ∧ (s.entry (handleIndex h)).action = some a := by
  unfold State.action? at named
  dsimp only at named
  split at named
  · exact ⟨‹_›, named⟩
  · cases named

theorem Ended.action {h : Handle} {a : Action} {o : ActionOutcome} (ended : s.Ended t h a o)
    (named : s.action? h = some a) (g : Handle) : t.action? g = if g = h then none else s.action? g := by
  by_cases index : handleIndex g = handleIndex h
  · have gone : t.action? g = none := by unfold State.action?; rw [ended.pool, if_pos index]; exact ite_self _
    rw [gone]
    split
    · rfl
    · rename_i other
      unfold State.action?
      rw [index, if_neg fun e => other ?_]
      rw [(makeHandle_iff _ _ g).2 ⟨rfl, rfl⟩, (makeHandle_iff _ _ h).2 ⟨rfl, rfl⟩, index, ← e, (entry_of_action named).1]
  · rw [if_neg fun e : g = h => index (e ▸ rfl)]
    exact action_congr (by rw [ended.pool, if_neg index])

theorem PoolSound.ended {h : Handle} {a : Action} {o : ActionOutcome} (pool : s.PoolSound) (ended : s.Ended t h a o)
    (named : s.action? h = some a) : t.PoolSound := by
  have bound := (entry_of_action named).2
  refine ⟨fun i b e => ?_, fun i => ?_, ?_, fun i => ?_⟩
  · rw [ended.pool] at e ⊢
    split at e
    · cases e
    · rename_i other
      rw [if_neg other]
      exact pool.ownHandle i b e
  · rw [ended.pool]
    split
    · exact nextGeneration_ne_zero _
    · exact pool.generations i
  · rw [ended.freeList]
    refine List.nodup_append.2 ⟨pool.freeOnce, List.nodup_singleton _, fun x free y last => ?_⟩
    rintro rfl
    rw [List.mem_singleton.1 last, pool.free, bound] at free
    cases free
  · rw [ended.freeList, ended.pool, List.mem_append, List.mem_singleton, pool.free]
    split <;> simp [*]

theorem Ended.lists {h : Handle} {a : Action} {o : ActionOutcome} (ended : s.Ended t h a o) {y : Item}
    (live : y ∈ t.items.live) : ∃ x ∈ s.items.live, y.number = x.number ∧ y.state = x.state ∧
      y.actions = if x.number = a.item then x.actions.filter (fun g => g ≠ a.handle) else x.actions := by
  rw [ended.items] at live
  obtain ⟨x, hx, rfl⟩ := List.mem_map.1 live
  refine ⟨x, hx, ?_⟩
  split <;> exact ⟨rfl, rfl, rfl⟩

theorem Ended.numbers {h : Handle} {a : Action} {o : ActionOutcome} (ended : s.Ended t h a o) :
    t.items.live.map Item.number = s.items.live.map Item.number := by
  rw [ended.items, List.map_map]
  refine List.map_congr_left fun x _ => ?_
  simp only [Function.comp]
  split <;> rfl

/-- An ending takes its handle out of the two sets of every channel. -/
theorem StoreSound.ended_sets {h : Handle} {a : Action} {o : ActionOutcome} (sound : s.StoreSound fails emptied)
    (named : s.action? h = some a) (ended : s.Ended t h a o) (c : Fin 16) :
    (t.channel c).onSet = (s.channel c).onSet.filter (fun x => x ≠ h) ∧
      (t.channel c).waitSet = (s.channel c).waitSet.filter (fun x => x ≠ h) := by
  have channels := ended.channels c
  split at channels
  · exact channels.sets sound.sets_disjoint
  · rename_i elsewhere
    have own : ∀ b, s.action? h = some b → b = a := fun b e => Option.some.inj (e.symm.trans named)
    rw [channels]
    refine ⟨(filter_ne_self fun on => ?_).symm, (filter_ne_self fun waits => ?_).symm⟩
    · obtain ⟨b, e, channel, state⟩ := (sound.onSet c h).1 on
      obtain rfl := own b e
      exact elsewhere ⟨channel.symm, .inl state⟩
    · obtain ⟨b, e, channel, state⟩ := (sound.waitSet c h).1 waits
      obtain rfl := own b e
      exact elsewhere ⟨channel.symm, .inr state⟩

/-- An ending keeps the store, and may leave its item with an empty list. -/
theorem StoreSound.ended {h : Handle} {a : Action} {o : ActionOutcome} (sound : s.StoreSound fails emptied)
    (named : s.action? h = some a) (ended : s.Ended t h a o) :
    t.StoreSound (fun g => fails g ∧ g ≠ h) (fun n => emptied n ∨ n = a.item) := by
  have handle := sound.pool.handle named
  have action := ended.action named
  have still : ∀ {g b}, t.action? g = some b → g ≠ h ∧ s.action? g = some b := fun {g b} e => by
    rw [action] at e
    split at e
    · cases e
    · exact ⟨‹_›, e⟩
  have schedule : ∀ c, t.schedule c = (s.schedule c).filter (fun x => x ≠ h) := fun c => by
    rw [ended.schedules]
    split
    · rw [handle]
    · rename_i elsewhere
      refine (filter_ne_self fun m => elsewhere ?_).symm
      obtain ⟨b, named', channel⟩ := (sound.scheduled c h).1 m
      exact channel.symm.trans (congrArg Action.channel (Option.some.inj (named'.symm.trans named)))
  have left : ∀ (P : Action → Prop) (g : Handle),
      ((∃ b, s.action? g = some b ∧ P b) ∧ g ≠ h ↔ ∃ b, t.action? g = some b ∧ P b) := fun P g => by
    rw [action]
    split <;> simp [*]
  have filtered : ∀ (xs : List Handle) (P : Action → Prop), (∀ g, g ∈ xs ↔ ∃ b, s.action? g = some b ∧ P b) →
      ∀ g, g ∈ xs.filter (fun x => x ≠ h) ↔ ∃ b, t.action? g = some b ∧ P b := fun xs P iff g => by
    rw [List.mem_filter, iff, ← left P g, decide_eq_true_iff]
  refine
    { pool := sound.pool.ended ended named
      scheduledOnce := fun c => by rw [schedule]; exact (sound.scheduledOnce c).filter _
      scheduled := fun c => by rw [schedule]; exact filtered _ _ (sound.scheduled c)
      parts := fun c => ?_
      distinct := by rw [ended.numbers]; exact sound.distinct
      listedOnce := fun y live => ?_
      listed := fun y live => ?_
      itemLives := fun g b named' => ?_
      setsOnce := fun c => ?_
      onSet := fun c => by rw [(sound.ended_sets named ended c).1]; exact filtered _ _ (sound.onSet c)
      waitSet := fun c => by rw [(sound.ended_sets named ended c).2]; exact filtered _ _ (sound.waitSet c)
      falseOnly := fun g b e false_ => ⟨sound.falseOnly g b (still e).2 false_, (still e).1⟩
      stamped := fun g b e => sound.stamped g b (still e).2
      leavingFires := fun y live leaving g b e item => ?_
      leavingHolds := fun y live leaving empty => ?_
      templates := fun i => by rw [State.recipe, ended.rest.1]; exact sound.templates i }
  · rw [schedule]
    exact ((sound.parts c).filter _).imp fun notAfter x y hx hy => notAfter x y (still hx).2 (still hy).2
  · obtain ⟨x, hx, -, -, actions⟩ := ended.lists live
    obtain ⟨once, few⟩ := sound.listedOnce x hx
    rw [actions]
    split
    · exact ⟨once.filter _, (List.length_filter_le _ _).trans few⟩
    · exact ⟨once, few⟩
  · obtain ⟨x, hx, number, -, actions⟩ := ended.lists live
    rw [actions, number]
    split
    · rw [handle]; exact filtered _ _ (sound.listed x hx)
    · rename_i other
      intro g
      rw [sound.listed x hx, ← left (fun b => b.item = x.number) g]
      refine (and_iff_left_of_imp ?_).symm
      rintro ⟨b, named', item⟩ rfl
      exact other (item ▸ congrArg Action.item (Option.some.inj (named'.symm.trans named)))
  · exact List.mem_map.1 (ended.numbers ▸ List.mem_map.2 (sound.itemLives g b (still named').2))
  · rw [(sound.ended_sets named ended c).1, (sound.ended_sets named ended c).2]
    exact ⟨(sound.setsOnce c).1.filter _, (sound.setsOnce c).2.filter _⟩
  · obtain ⟨x, hx, number, state, -⟩ := ended.lists live
    exact sound.leavingFires x hx (state ▸ leaving) g b (still e).2 (item.trans number)
  · obtain ⟨x, hx, number, state, actions⟩ := ended.lists live
    rw [number]
    by_cases own : x.number = a.item
    · exact .inr own
    · rw [actions, if_neg own] at empty
      exact .inl (sound.leavingHolds x hx (state ▸ leaving) empty)

/-! ### A removal (R46) -/

theorem StoreSound.removed {it : Item} {reason : ExitReason} (sound : s.StoreSound fails emptied)
    (removed : s.Removed t it reason) (free : ∀ h a, s.action? h = some a → a.item ≠ it.number) :
    t.StoreSound fails (fun n => emptied n ∧ n ≠ it.number) := by
  obtain ⟨whole, -⟩ := removed
  have actions : t.actions = s.actions := by rw [whole]
  have entry : ∀ i, t.entry i = s.entry i := fun i => by rw [State.entry, actions]; rfl
  have action : t.action? = s.action? := action?_congr actions
  have schedule : ∀ c, t.schedule c = s.schedule c := fun c => by rw [State.schedule, actions]; rfl
  have channel : ∀ c, t.channel c = s.channel c := fun c => by rw [State.channel, whole]; rfl
  have live : t.items.live = s.items.live.filter (fun x => x.number ≠ it.number) := by rw [whole]
  have stays : ∀ {y}, y ∈ t.items.live → y ∈ s.items.live ∧ y.number ≠ it.number := fun {y} m => by
    rw [live, List.mem_filter] at m
    exact ⟨m.1, of_decide_eq_true m.2⟩
  have notAfter : t.NotAfter = s.NotAfter := by unfold State.NotAfter; rw [action]
  refine
    { pool := ?_, scheduledOnce := ?_, scheduled := ?_, parts := ?_
      distinct := by rw [live]; exact sound.distinct.sublist (List.filter_sublist.map _)
      listedOnce := fun y m => sound.listedOnce y (stays m).1
      listed := fun y m => by rw [action]; exact sound.listed y (stays m).1
      itemLives := fun h a named => ?_
      setsOnce := ?_, onSet := ?_, waitSet := ?_, falseOnly := ?_, stamped := ?_
      leavingFires := fun y m leaving => by rw [action]; exact sound.leavingFires y (stays m).1 leaving
      leavingHolds := fun y m leaving empty => ⟨sound.leavingHolds y (stays m).1 leaving empty, (stays m).2⟩
      templates := fun i => ?_ }
  · obtain ⟨own, generations, once, free⟩ := sound.pool
    constructor <;> simpa only [entry, actions]
  case refine_5 =>
    rw [action] at named
    obtain ⟨x, hx, number⟩ := sound.itemLives h a named
    refine ⟨x, ?_, number⟩
    rw [live, List.mem_filter]
    exact ⟨hx, decide_eq_true fun e => free h a named (number.symm.trans e)⟩
  case refine_11 =>
    have body : (t.recipe i).body = (s.recipe i).body := by
      rw [whole]
      show ((s.updRecipe it.recipe (fun r => { r with refCount := r.refCount - 1 })).recipe i).body = _
      rw [recipe_updRecipe]
      split
      · subst_vars; rfl
      · rfl
    rw [body]
    exact sound.templates i
  all_goals simp only [schedule, action, channel, notAfter]
  · exact sound.scheduledOnce
  · exact sound.scheduled
  · exact sound.parts
  · exact sound.setsOnce
  · exact sound.onSet
  · exact sound.waitSet
  · exact sound.falseOnly
  · exact sound.stamped

/-! ### Lists cut short (R44, R49 to R51) -/

/-- What a cut leaves of the actions: those to which it gives no outcome. -/
theorem CutEach.action {outcome : Action → Option ActionOutcome} {hs : List Handle} (cut : State.CutEach outcome hs s t)
    {g : Handle} {b : Action} (named : t.action? g = some b) :
    s.action? g = some b ∧ (g ∈ hs → outcome b = none) := by
  induction cut with
  | done s => exact ⟨named, fun m => by simp at m⟩
  | left s t h rest none more ih =>
    obtain ⟨before, kept⟩ := ih named
    refine ⟨before, fun m => ?_⟩
    obtain rfl | later := List.mem_cons.1 m
    · exact none b (names_iff.2 before)
    · exact kept later
  | one s u t h rest a o now gives ended more ih =>
    obtain ⟨before, kept⟩ := ih named
    rw [ended.action (names_iff.1 now)] at before
    split at before
    · cases before
    · exact ⟨before, fun m => kept ((List.mem_cons.1 m).resolve_left ‹_›)⟩

/-- A cut through actions of one item keeps the store, and may leave that item with an empty list. -/
theorem StoreSound.cut {outcome : Action → Option ActionOutcome} {hs : List Handle} {n : Half}
    (cut : State.CutEach outcome hs s t) (sound : s.StoreSound fails emptied)
    (own : ∀ h ∈ hs, ∀ a, s.action? h = some a → a.item = n) :
    t.StoreSound fails (fun m => emptied m ∨ m = n) := by
  induction cut generalizing emptied with
  | done s => exact sound.mono (fun _ => id) fun _ => .inl
  | left s t h rest none more ih => exact ih sound fun g m => own g (.tail _ m)
  | one s u t h rest a o now gives ended more ih =>
    have named := names_iff.1 now
    have item := own h (.head _) a named
    have next := (sound.ended named ended).mono (fun _ => And.left) fun m => id
    refine (ih next fun g m b before => own g (.tail _ m) b ?_).mono (fun _ => id) fun m => ?_
    · rw [ended.action named] at before
      split at before
      · cases before
      · exact before
    · rw [item, or_assoc, or_self]; exact id

theorem StoreSound.own_item (sound : s.StoreSound fails emptied) {it : Item} (live : it ∈ s.items.live) {h : Handle}
    (listed : h ∈ it.actions) (a : Action) (named : s.action? h = some a) : a.item = it.number := by
  obtain ⟨b, e, item⟩ := (sound.listed it live h).1 listed
  rw [Option.some.inj (named.symm.trans e), item]

/-! ### The head check and the exit (R44, R47) -/

theorem StoreSound.drop_emptied {n : Half} (sound : s.StoreSound fails (fun m => emptied m ∨ m = n)) {x : Item}
    (live : x ∈ s.items.live) (number : x.number = n) (holds : x.actions ≠ []) : s.StoreSound fails emptied :=
  { sound with
    leavingHolds := fun y hy leaving empty => (sound.leavingHolds y hy leaving empty).resolve_right fun e =>
      holds (sound.item_unique live hy (number.trans e.symm) ▸ empty) }

theorem HeadRuns.storeSound {atExit : Bool} (runs : State.HeadRuns atExit s t) (sound : s.StoreSound fails emptied) :
    t.StoreSound fails emptied := by
  induction runs with
  | settled s h => exact sound
  | due s t h more ih => exact ih sound
  | empty s h => exact sound
  | leaves s u it x head lost now firing =>
    have live : it ∈ s.items.live := List.mem_of_mem_head? (Option.mem_def.2 head)
    have after := sound.cut lost fun h m a => sound.own_item live m a
    have holds : u.StoreSound fails emptied :=
      after.drop_emptied (mem_of_item now) (number_of_item now) firing
    have fires : ∀ h a, u.action? h = some a → a.item = it.number → a.state = .on ∨ a.state = .waitGap := by
      intro h a named item
      obtain ⟨before, kept⟩ := CutEach.action lost named
      have := kept ((sound.listed it live h).2 ⟨a, before, item⟩)
      by_contra armed
      simp [armed] at this
    refine
      { holds with
        pool := ⟨holds.pool.ownHandle, holds.pool.generations, holds.pool.freeOnce, holds.pool.free⟩
        distinct := ?_
        listedOnce := fun y m => ?_, listed := fun y m => ?_, itemLives := fun h a named => ?_
        leavingFires := fun y m leaving => ?_, leavingHolds := fun y m leaving => ?_ }
    · have same := updItem_numbers u it.number (fun y => { y with state := .leaving }) fun _ => rfl
      exact same ▸ holds.distinct
    · obtain ⟨z, hz, rfl⟩ := List.mem_map.1 m
      have := holds.listedOnce z hz
      split <;> exact this
    · obtain ⟨z, hz, rfl⟩ := List.mem_map.1 m
      have := holds.listed z hz
      split <;> exact this
    · obtain ⟨z, hz, number⟩ := holds.itemLives h a named
      refine ⟨_, List.mem_map.2 ⟨z, hz, rfl⟩, ?_⟩
      split <;> exact number
    · obtain ⟨z, hz, rfl⟩ := List.mem_map.1 m
      intro h a named item
      by_cases own : z.number = it.number
      · rw [if_pos own] at item
        exact fires h a named (item.trans own)
      · rw [if_neg own] at leaving item
        exact holds.leavingFires z hz leaving h a named item
    · obtain ⟨z, hz, rfl⟩ := List.mem_map.1 m
      intro empty
      by_cases own : z.number = it.number
      · rw [if_pos own] at empty
        have := holds.item_unique hz (mem_of_item now) (own.trans (number_of_item now).symm)
        exact absurd (this ▸ empty) firing
      · rw [if_neg own] at leaving empty ⊢
        exact holds.leavingHolds z hz leaving empty
  | exits s u v t it x head lost now none removed more ih =>
    have live : it ∈ s.items.live := List.mem_of_mem_head? (Option.mem_def.2 head)
    have after := sound.cut lost fun h m a => sound.own_item live m a
    have free : ∀ h a, u.action? h = some a → a.item ≠ it.number := fun h a named e =>
      after.no_action (mem_of_item now) none named (e.trans (number_of_item now).symm)
    refine ih ((after.removed removed free).mono (fun _ => id) fun m => ?_)
    exact fun h => h.1.resolve_right h.2

theorem StoreSound.itemRemoved {it : Item} {reason : ExitReason} (sound : s.StoreSound fails emptied)
    (removed : s.ItemRemoved t it reason) (free : ∀ h a, s.action? h = some a → a.item ≠ it.number) :
    t.StoreSound fails (fun n => emptied n ∧ n ≠ it.number) := by
  obtain ⟨u, gone, rest⟩ := removed
  have after := sound.removed gone free
  split at rest
  · exact rest.storeSound after
  · rw [rest]; exact after

/-! ### Whole endings -/

/-- An ending keeps the store, with the completion of its item, and need not be excepted any longer. -/
theorem StoreSound.endedWhole {h : Handle} {a : Action} {o : ActionOutcome} (sound : s.StoreSound fails emptied)
    (named : s.action? h = some a) (ended : s.EndedWhole t h a o) : t.StoreSound (fun g => fails g ∧ g ≠ h) emptied := by
  obtain ⟨plain, completing⟩ := ended
  have handle := sound.pool.handle named
  by_cases completes : ∃ it, s.Completes a it
  · obtain ⟨it, completes⟩ := completes
    obtain ⟨u, core, removed⟩ := completing it completes
    obtain ⟨found, -, last⟩ := completes
    have after := sound.ended named core
    have number := number_of_item found
    have free : ∀ g b, u.action? g = some b → b.item ≠ it.number := fun g b e item => by
      rw [core.action named] at e
      split at e
      · cases e
      · rename_i other
        exact other ((last g ((sound.listed it (mem_of_item found) g).2 ⟨b, e, item⟩)).trans handle)
    refine (after.itemRemoved removed free).mono (fun _ => id) fun m h => ?_
    exact h.1.resolve_right fun e => h.2 (e.trans number.symm)
  · have core := plain fun it c => completes ⟨it, c⟩
    have after := sound.ended named core
    refine { after with leavingHolds := fun y live leaving empty => ?_ }
    refine (after.leavingHolds y live leaving empty).resolve_right fun own => completes ?_
    obtain ⟨x, hx, number, state, actions⟩ := core.lists live
    have item : x.number = a.item := number.symm.trans own
    refine ⟨x, item ▸ sound.item_of_mem hx, state ▸ leaving, fun g m => ?_⟩
    rw [actions, if_pos item] at empty
    by_contra other
    exact List.filter_eq_nil_iff.1 empty g m (decide_eq_true other)

theorem EndsInTurn.storeSound {o : ActionOutcome} {hs : List Handle} (ends : State.EndsInTurn o hs s t)
    (sound : s.StoreSound fails emptied) : t.StoreSound (fun g => fails g ∧ g ∉ hs) emptied := by
  induction ends generalizing fails with
  | done s => exact sound.mono (fun g f => ⟨f, List.not_mem_nil⟩) fun _ => id
  | stale s t h rest none more ih =>
    refine (ih (sound.drop_stale (not_names.1 none))).mono (fun g f => ?_) fun _ => id
    exact ⟨f.1.1, fun m => (List.mem_cons.1 m).elim f.1.2 f.2⟩
  | one s u t h rest a named ended more ih =>
    refine (ih (sound.endedWhole (names_iff.1 named) ended)).mono (fun g f => ?_) fun _ => id
    exact ⟨f.1.1, fun m => (List.mem_cons.1 m).elim f.1.2 f.2⟩

end State
end Sys2Proof.Machine
end

section
/-! PROOFS. What fires, decides, places and binds actions keeps the Action Store (R76, R79, R80, R83, R89, R90, R101, R138,
R140). -/
namespace Sys2Proof.Machine

namespace State

variable {s t : State} {fails : Handle → Prop} {emptied : Half → Prop}

/-! ### Parts of a schedule (R79) -/

theorem notAfter_of_first {x y : Handle} (first : ∀ a, s.action? x = some a → a.state.part = 1) : s.NotAfter x y :=
  fun a b named _ => by rw [first a named]; cases b.state <;> decide

theorem notAfter_of_last {x y : Handle} (last : ∀ b, s.action? y = some b → b.state.part = 3) : s.NotAfter x y :=
  fun a b _ named => by rw [last b named]; cases a.state <;> decide

theorem inPart1_part {h : Handle} (first : s.inPart1 h = true) (a : Action) (named : s.action? h = some a) :
    a.state.part = 1 := by
  simp only [State.inPart1, named, Option.any_some, decide_eq_true_eq] at first
  obtain e | e := first <;> rw [e] <;> rfl

theorem inPart3_part {h : Handle} (last : s.inPart3 h = true) (a : Action) (named : s.action? h = some a) :
    a.state.part = 3 := by
  simp only [State.inPart3, named, Option.any_some, decide_eq_true_eq] at last
  rw [last]; rfl

theorem part_lt_of_not_inPart3 {h : Handle} (earlier : s.inPart3 h = false) (a : Action) (named : s.action? h = some a) :
    a.state.part ≤ 2 := by
  simp only [State.inPart3, named, Option.any_some, decide_eq_false_iff_not] at earlier
  revert earlier
  cases a.state <;> decide

theorem NotAfter.transfer {x y : Handle} (notAfter : s.NotAfter x y) (hx : t.action? x = s.action? x)
    (hy : t.action? y = s.action? y) : t.NotAfter x y := by unfold State.NotAfter; rw [hx, hy]; exact notAfter

/-- A handle moved between the two halves of a list split by `p`. -/
theorem nodup_split {xs : List Handle} (once : xs.Nodup) {h : Handle} {p q : Handle → Bool} (apart : ∀ x, q x = !p x) :
    (xs.filter (fun x => x ≠ h && p x) ++ h :: xs.filter (fun x => x ≠ h && q x)).Nodup := by
  refine List.nodup_append.2 ⟨once.filter _, List.nodup_cons.2 ⟨by simp, once.filter _⟩, fun x mx y my => ?_⟩
  rintro rfl
  simp only [List.mem_filter, Bool.and_eq_true, decide_eq_true_eq] at mx
  obtain rfl | my := List.mem_cons.1 my
  · exact mx.2.1 rfl
  · simp only [List.mem_filter, Bool.and_eq_true, apart, mx.2.2] at my
    simp at my

theorem mem_split {xs : List Handle} {h : Handle} (here : h ∈ xs) {p q : Handle → Bool} (apart : ∀ x, q x = !p x) (g : Handle) :
    g ∈ xs.filter (fun x => x ≠ h && p x) ++ h :: xs.filter (fun x => x ≠ h && q x) ↔ g ∈ xs := by
  by_cases e : g = h
  · simp [e, here]
  · cases keep : p g <;> simp [e, apart, keep]

theorem pairwise_split {xs : List Handle} {h : Handle} {p q : Handle → Bool} {R : Handle → Handle → Prop}
    (front : (xs.filter (fun x => x ≠ h && p x)).Pairwise R) (back : (xs.filter (fun x => x ≠ h && q x)).Pairwise R)
    (before : ∀ x ∈ xs, x ≠ h → p x = true → R x h) (after : ∀ y ∈ xs, y ≠ h → q y = true → R h y)
    (across : ∀ x ∈ xs, ∀ y ∈ xs, x ≠ h → y ≠ h → p x = true → q y = true → R x y) :
    (xs.filter (fun x => x ≠ h && p x) ++ h :: xs.filter (fun x => x ≠ h && q x)).Pairwise R := by
  have split : ∀ {r : Handle → Bool} {x}, x ∈ xs.filter (fun x => x ≠ h && r x) → x ∈ xs ∧ x ≠ h ∧ r x = true := by
    intro r x m
    simpa using m
  refine List.pairwise_append.2 ⟨front, List.pairwise_cons.2 ⟨fun y m => ?_, back⟩, fun x mx y my => ?_⟩
  · obtain ⟨here, other, keep⟩ := split m
    exact after y here other keep
  · obtain ⟨hx, other, keep⟩ := split mx
    obtain rfl | my := List.mem_cons.1 my
    · exact before x hx other keep
    · obtain ⟨hy, other', keep'⟩ := split my
      exact across x hx y hy other other' keep keep'

/-- Pairs of a list from which `h` is left out, in a state that leaves the actions of all other handles. -/
theorem parts_filter {xs : List Handle} {h : Handle} {p : Handle → Bool} (sorted : xs.Pairwise s.NotAfter)
    (others : ∀ x, x ≠ h → t.action? x = s.action? x) : (xs.filter (fun x => x ≠ h && p x)).Pairwise t.NotAfter := by
  refine (sorted.filter _).imp_of_mem fun {x y} mx my notAfter => ?_
  have hx : x ≠ h := by simp at mx; exact mx.2.1
  have hy : y ≠ h := by simp at my; exact my.2.1
  exact notAfter.transfer (others x hx) (others y hy)

/-! ### A placing in part 3 (R79) -/

theorem PlacedIn.mem {c : Fin 16} {h : Handle} (placed : s.PlacedIn t c h) (g : Handle) :
    g ∈ t.schedule c ↔ g ∈ s.schedule c ∨ g = h := by
  obtain ⟨-, part3, e, perm, -⟩ := placed
  rw [e, List.mem_append, perm.mem_iff, List.mem_cons]
  by_cases own : g = h
  · simp [own]
  · cases keep : t.inPart3 g <;> simp [own, keep]

theorem PlacedIn.nodup {c : Fin 16} {h : Handle} (placed : s.PlacedIn t c h) (once : (s.schedule c).Nodup) :
    (t.schedule c).Nodup := by
  obtain ⟨-, part3, e, perm, -⟩ := placed
  rw [e, (perm.append_left _).nodup_iff]
  exact nodup_split once fun x => (Bool.not_not _).symm

theorem PlacedIn.parts {c : Fin 16} {h : Handle} (placed : s.PlacedIn t c h) (sorted : (s.schedule c).Pairwise s.NotAfter)
    (others : ∀ x, x ≠ h → t.action? x = s.action? x) (ahead : t.inPart3 h = true) :
    (t.schedule c).Pairwise t.NotAfter := by
  obtain ⟨-, part3, e, perm, -⟩ := placed
  have last : ∀ y ∈ part3, t.inPart3 y = true := fun y m => by
    obtain rfl | m := List.mem_cons.1 (perm.mem_iff.1 m)
    · exact ahead
    · simp at m; exact m.2.2
  have behind : ∀ x, ∀ y ∈ part3, t.NotAfter x y := fun x y m => notAfter_of_last (inPart3_part (last y m))
  rw [e]
  refine List.pairwise_append.2 ⟨parts_filter sorted others, ?_, fun x _ y m => behind x y m⟩
  exact List.pairwise_of_forall_mem_list fun x _ y m => behind x y m

/-! ### One action in another phase -/

/-- The action `a` of the handle `h` becomes `b`, of the same item and channel; its schedule keeps its handles, in the order
that the parts ask; the handle joins the set that a FIRING sub-state names. -/
structure Rephases (s t : State) (h : Handle) (a b : Action) : Prop where
  record : s.Recorded t h b
  place : b.handle = a.handle ∧ b.item = a.item ∧ b.channel = a.channel
  stamped : a.Stamped → b.Stamped
  stays : a.state = .on ∨ a.state = .waitGap → b.state = a.state
  others : ∀ c, c ≠ a.channel → t.schedule c = s.schedule c
  once : (s.schedule a.channel).Nodup → (t.schedule a.channel).Nodup
  same : h ∈ s.schedule a.channel → ∀ g, g ∈ t.schedule a.channel ↔ g ∈ s.schedule a.channel
  parts : (s.schedule a.channel).Pairwise s.NotAfter → (t.schedule a.channel).Pairwise t.NotAfter
  onSet : ∀ c, (t.channel c).onSet =
    if c = a.channel ∧ b.state = .on ∧ a.state ≠ .on then (s.channel c).onSet ++ [h] else (s.channel c).onSet
  waitSet : ∀ c, (t.channel c).waitSet =
    if c = a.channel ∧ b.state = .waitGap ∧ a.state ≠ .waitGap then (s.channel c).waitSet ++ [h] else (s.channel c).waitSet
  rest : t.items = s.items ∧ t.recipes = s.recipes ∧ t.actions.freeList = s.actions.freeList

/-- The set of a sub-state after a rephasing, for either of the two sets. -/
theorem Rephases.set {h : Handle} {a b : Action} (rephases : s.Rephases t h a b) (named : s.action? h = some a)
    (x : ActionState) (firing : x = .on ∨ x = .waitGap) {before after : Fin 16 → List Handle}
    (was : ∀ c g, g ∈ before c ↔ ∃ y, s.action? g = some y ∧ y.channel = c ∧ y.state = x)
    (joins : ∀ c, after c = if c = a.channel ∧ b.state = x ∧ a.state ≠ x then before c ++ [h] else before c) (c : Fin 16) :
    ((before c).Nodup → (after c).Nodup) ∧
      ∀ g, g ∈ after c ↔ ∃ y, t.action? g = some y ∧ y.channel = c ∧ y.state = x := by
  have action := rephases.record.action named
  have stays : a.state = x → b.state = x := fun e => (rephases.stays (e ▸ firing)).trans e
  rw [joins]
  constructor
  · intro once
    split
    · rename_i new
      refine List.nodup_append.2 ⟨once, List.nodup_singleton _, fun g m y last => ?_⟩
      rintro rfl
      rw [List.mem_singleton.1 last] at m
      obtain ⟨y, e, -, state⟩ := (was c h).1 m
      exact new.2.2 (Option.some.inj (e.symm.trans named) ▸ state)
    · exact once
  · intro g
    by_cases own : g = h
    · subst own
      have now : (∃ y, t.action? g = some y ∧ y.channel = c ∧ y.state = x) ↔ c = a.channel ∧ b.state = x := by
        simp [action, rephases.place.2.2, eq_comm]
      have then_ : g ∈ before c ↔ c = a.channel ∧ a.state = x := by simp [was, named, eq_comm]
      rw [now]
      split
      · rename_i new; simp [new.1, new.2.1]
      · rename_i old
        rw [then_]
        exact ⟨fun ⟨e, state⟩ => ⟨e, stays state⟩, fun ⟨e, state⟩ => ⟨e, by_contra fun other => old ⟨e, state, other⟩⟩⟩
    · rw [action, if_neg own, ← was]
      split <;> simp [own]

theorem StoreSound.rephases {h : Handle} {a b : Action} (sound : s.StoreSound fails emptied) (named : s.action? h = some a)
    (rephases : s.Rephases t h a b) {fails' : Handle → Prop} (weaker : ∀ g, fails g → fails' g)
    (false_ : b.condState = .fails → a.condState = .fails ∨ fails' h) : t.StoreSound fails' emptied := by
  have action := rephases.record.action named
  obtain ⟨handle, item, channel⟩ := rephases.place
  obtain ⟨items, recipes, free⟩ := rephases.rest
  have here : h ∈ s.schedule a.channel := (sound.scheduled a.channel h).2 ⟨a, named, rfl⟩
  have on := rephases.set named .on (.inl rfl) sound.onSet rephases.onSet
  have waits := rephases.set named .waitGap (.inr rfl) sound.waitSet rephases.waitSet
  have old : ∀ {g y}, t.action? g = some y → g = h ∧ y = b ∨ g ≠ h ∧ s.action? g = some y := fun {g y} e => by
    rw [action] at e
    split at e
    · exact .inl ⟨‹_›, (Option.some.inj e).symm⟩
    · exact .inr ⟨‹_›, e⟩
  refine sound.rephased (sound.pool.recorded named rephases.record handle free) (fun g => ?_) (fun c => ?_) (fun c => ?_)
    (fun c => ?_) (by rw [items]) (fun c => ⟨(on c).1 (sound.setsOnce c).1, (waits c).1 (sound.setsOnce c).2⟩)
    (fun c => (on c).2) (fun c => (waits c).2) (fun g y e failed => ?_) (fun g y e => ?_)
    (fun g x y before after firing => ?_) recipes
  · rw [action]
    split
    · subst_vars; simp [named, item, channel]
    · rfl
  · by_cases own : c = a.channel
    · subst own; exact rephases.once (sound.scheduledOnce _)
    · rw [rephases.others c own]; exact sound.scheduledOnce c
  · by_cases own : c = a.channel
    · subst own; exact rephases.same here
    · rw [rephases.others c own]; exact fun _ => Iff.rfl
  · by_cases own : c = a.channel
    · subst own; exact rephases.parts (sound.parts _)
    · rw [rephases.others c own]
      refine (sound.parts c).imp_of_mem fun {x y} mx my notAfter => ?_
      have other : ∀ {z}, z ∈ s.schedule c → t.action? z = s.action? z := fun {z} m => by
        rw [action, if_neg]
        rintro rfl
        obtain ⟨w, e, channel⟩ := (sound.scheduled c z).1 m
        exact own (channel.symm.trans (congrArg Action.channel (Option.some.inj (e.symm.trans named))))
      exact notAfter.transfer (other mx) (other my)
  · obtain ⟨rfl, rfl⟩ | ⟨-, e⟩ := old e
    · exact (false_ failed).elim (fun f => weaker g (sound.falseOnly g a named f)) id
    · exact weaker g (sound.falseOnly g y e failed)
  · obtain ⟨rfl, rfl⟩ | ⟨-, e⟩ := old e
    · exact rephases.stamped (sound.stamped g a named)
    · exact sound.stamped g y e
  · obtain ⟨rfl, rfl⟩ | ⟨-, e⟩ := old after
    · obtain rfl := Option.some.inj (before.symm.trans named)
      rw [rephases.stays firing]; exact firing
    · obtain rfl := Option.some.inj (before.symm.trans e)
      exact firing

end State
end Sys2Proof.Machine
end

section
/-! PROOFS. Firing, decisions, placings and bindings keep the Action Store, each through the relation of the claims that says
what it does (R76, R80, R83, R89, R90, R101). -/
namespace Sys2Proof.Machine

namespace State

variable {s t : State} {fails : Handle → Prop} {emptied : Half → Prop}

theorem channel_of_set {c : Fin 16} {x : Channel} (e : t.channels = s.channels.set c.val x) (d : Fin 16) :
    t.channel d = if d = c then x else s.channel d := by
  have := s.channel_updChannel c d fun _ => x
  unfold State.channel at this ⊢
  rw [e]
  exact this

/-! ### Firing (R89, R90) -/

/-- An action handed over takes its place in part 1 and in the set of its sub-state. -/
theorem HandedOver.rephases {h : Handle} {a : Action} {late : Bool} (handed : s.HandedOver t h a late)
    (named : s.action? h = some a) (armed : a.state ≠ .on ∧ a.state ≠ .waitGap) : ∃ b, s.Rephases t h a b ∧
      b.condState = a.condState := by
  obtain ⟨waits, turnsOn, schedules, rest, free, -⟩  := handed
  have split : ∀ x, (!s.inPart1 x) = !s.inPart1 x := fun _ => rfl
  have schedule := schedules a.channel
  rw [if_pos rfl] at schedule
  have moved : ∀ b, s.Recorded t h b → b.state.part = 1 → (s.schedule a.channel).Pairwise s.NotAfter →
      (t.schedule a.channel).Pairwise t.NotAfter := by
    intro b record part sorted
    have others : ∀ x, x ≠ h → t.action? x = s.action? x := fun x other => record.action_other named other
    have first : ∀ x y, x ≠ h → s.inPart1 x = true → t.NotAfter x y := fun x y other inPart => notAfter_of_first
      fun z e => inPart1_part inPart z (others x other ▸ e)
    have self : ∀ y, t.NotAfter h y := fun y => notAfter_of_first fun z e => by
      obtain rfl := Option.some.inj (e.symm.trans (record.action_self named)); exact part
    rw [schedule]
    exact pairwise_split (parts_filter sorted others) (parts_filter sorted others) (fun x _ => first x h)
      (fun y _ _ _ => self y) fun x _ y _ other _ inPart _ => first x y other inPart
  have common : ∀ b, s.Recorded t h b → (b.state = .on ∨ b.state = .waitGap) →
      (b.handle = a.handle ∧ b.item = a.item ∧ b.channel = a.channel) → (a.Stamped → b.Stamped) →
      (∀ c, (t.channel c).onSet =
        if c = a.channel ∧ b.state = .on ∧ a.state ≠ .on then (s.channel c).onSet ++ [h] else (s.channel c).onSet) →
      (∀ c, (t.channel c).waitSet = if c = a.channel ∧ b.state = .waitGap ∧ a.state ≠ .waitGap then
        (s.channel c).waitSet ++ [h] else (s.channel c).waitSet) → s.Rephases t h a b := by
    intro b record state place stamped onSet waitSet
    exact
      { record, place, stamped, onSet, waitSet
        stays := fun firing => (firing.elim armed.1 armed.2).elim
        others := fun c other => (schedules c).trans (if_neg other)
        once := fun once => by rw [schedule]; exact nodup_split once split
        same := fun here => by rw [schedule]; exact mem_split here split
        parts := moved b record (by obtain e | e := state <;> rw [e] <;> rfl)
        rest := ⟨by rw [rest], by rw [rest], free⟩ }
  by_cases gap : s.waitsForGap a.channel
  · obtain ⟨record, channels⟩ := waits gap
    refine ⟨_, common _ record (.inr rfl) ⟨rfl, rfl, rfl⟩ (fun stamped => ?_) (fun c => ?_) (fun c => ?_), rfl⟩
    · obtain ⟨start, timer, -⟩ := stamped
      have idle : a.start = none := by_contra fun e => armed.1 (start.1 e)
      have stopped : a.timer = none := by_contra fun e => armed.1 (timer e)
      simp [Action.Stamped, idle, stopped]
    · rw [channel_of_set channels]
      by_cases here : c = a.channel
      · subst here; simp [armed]
      · simp [here]
    · rw [channel_of_set channels]
      by_cases here : c = a.channel
      · subst here; simp [armed]
      · simp [here]
  · obtain ⟨record, channels⟩ := turnsOn gap
    refine ⟨_, common _ record (.inl rfl) ⟨rfl, rfl, rfl⟩ (fun _ => ?_) (fun c => ?_) (fun c => ?_), rfl⟩
    · simp [Action.Stamped]
    · rw [channel_of_set channels]
      by_cases here : c = a.channel
      · subst here; simp [armed]
      · simp [here]
    · rw [channel_of_set channels]
      by_cases here : c = a.channel
      · subst here; simp [armed]
      · simp [here]

theorem StoreSound.handedOver {h : Handle} {a : Action} {late : Bool} (sound : s.StoreSound fails emptied)
    (named : s.action? h = some a) (armed : a.state ≠ .on ∧ a.state ≠ .waitGap) (handed : s.HandedOver t h a late) :
    t.StoreSound fails emptied := by
  obtain ⟨b, rephases, cond⟩  := handed.rephases named armed
  exact sound.rephases named rephases (fun _ => id) fun failed => .inl (cond ▸ failed)

/-- A rephasing between sub-states that are not FIRING, or that leaves the sub-state. -/
theorem Rephases.of_armed {h : Handle} {a b : Action} (record : s.Recorded t h b)
    (place : b.handle = a.handle ∧ b.item = a.item ∧ b.channel = a.channel) (stamped : a.Stamped → b.Stamped)
    (armed : b.state = a.state ∨ (a.state = .ahead ∨ a.state = .overdue) ∧ (b.state = .ahead ∨ b.state = .overdue))
    (others : ∀ c, c ≠ a.channel → t.schedule c = s.schedule c)
    (once : (s.schedule a.channel).Nodup → (t.schedule a.channel).Nodup)
    (same : h ∈ s.schedule a.channel → ∀ g, g ∈ t.schedule a.channel ↔ g ∈ s.schedule a.channel)
    (parts : (s.schedule a.channel).Pairwise s.NotAfter → (t.schedule a.channel).Pairwise t.NotAfter)
    (rest : t = { s with actions := t.actions }) (free : t.actions.freeList = s.actions.freeList) :
    s.Rephases t h a b := by
  have channel : ∀ c, t.channel c = s.channel c := fun c => by rw [rest]; rfl
  have unfired : ∀ x : ActionState, x = .on ∨ x = .waitGap → ¬(b.state = x ∧ a.state ≠ x) := by
    rintro x firing ⟨now, before⟩
    obtain e | ⟨-, e⟩ := armed
    · exact before (e ▸ now)
    · rw [now] at e
      obtain rfl | rfl := firing <;> simp at e
  refine
    { record, place, stamped, others, once, same, parts
      stays := fun firing => armed.resolve_right fun e => ?_
      onSet := fun c => by rw [channel, if_neg fun h => unfired .on (.inl rfl) h.2]
      waitSet := fun c => by rw [channel, if_neg fun h => unfired .waitGap (.inr rfl) h.2]
      rest := ⟨by rw [rest], by rw [rest], free⟩ }
  obtain ⟨e | e, -⟩ := e <;> simp [e] at firing

/-- A fire point reached keeps the store: TRUE fires, and UNRESOLVED becomes OVERDUE at the end of part 2. -/
theorem StoreSound.fireReached {h : Handle} {a : Action} (sound : s.StoreSound fails emptied)
    (named : s.action? h = some a) (ahead : a.state = .ahead) (reached : s.FireReached t h a) :
    t.StoreSound fails emptied := by
  cases cond : a.condState with
  | holds => exact sound.handedOver named (by rw [ahead]; exact ⟨nofun, nofun⟩) (reached.fires cond)
  | fails => rw [reached.never cond]; exact sound
  | unresolved =>
    obtain ⟨record, schedules, rest, free, -⟩ := reached.overdue cond
    have schedule := schedules a.channel
    rw [if_pos rfl] at schedule
    have split : ∀ x, s.inPart3 x = !!s.inPart3 x := fun _ => (Bool.not_not _).symm
    refine sound.rephases named (b := { a with state := .overdue }) (fails' := fails) (.of_armed record ⟨rfl, rfl, rfl⟩
      (fun stamped => ?_) (.inr ⟨.inl ahead, .inr rfl⟩) (fun c other => (schedules c).trans (if_neg other))
      (fun once => by rw [schedule]; exact nodup_split once split)
      (fun here => by rw [schedule]; exact mem_split here split) (fun sorted => ?_) rest free) (fun _ => id) .inl
    · simpa [Action.Stamped, ahead] using stamped
    · have others : ∀ x, x ≠ h → t.action? x = s.action? x := fun x other => record.action_other named other
      have last : ∀ x y, y ≠ h → s.inPart3 y = true → t.NotAfter x y := fun x y other inPart => notAfter_of_last
        fun z e => inPart3_part inPart z (others y other ▸ e)
      rw [schedule]
      refine pairwise_split (parts_filter sorted others) (parts_filter sorted others) (fun x _ other inPart => ?_)
        (fun y _ => last h y) fun x _ y _ _ other _ => last x y other
      intro y z hy hz
      obtain rfl := Option.some.inj (hz.symm.trans (record.action_self named))
      rw [others x other] at hy
      exact part_lt_of_not_inPart3 (by simpa using inPart) y hy

/-- A condition decided is stored (R80). -/
theorem StoreSound.decided {h : Handle} {a : Action} (sound : s.StoreSound fails emptied) (named : s.action? h = some a)
    {c : CondState} (stored : s.Recorded t h { a with condState := c } ∧
      t = { s with actions := { s.actions with pool := t.actions.pool } }) {fails' : Handle → Prop}
    (weaker : ∀ g, fails g → fails' g) (false_ : c = .fails → fails' h) : t.StoreSound fails' emptied := by
  obtain ⟨record, rest⟩ := stored
  have schedule : ∀ c, t.schedule c = s.schedule c := fun c => by rw [rest]; rfl
  refine sound.rephases named (.of_armed record ⟨rfl, rfl, rfl⟩ id (.inl rfl) (fun c _ => schedule c)
    (by rw [schedule]; exact id) (by rw [schedule]; exact fun _ _ => Iff.rfl) (fun sorted => ?_)
    (by rw [rest]) (by rw [rest])) weaker fun failed => .inr (false_ failed)
  rw [schedule]
  refine sorted.imp fun {x y} notAfter u v hu hv => ?_
  have old : ∀ {z w}, t.action? z = some w → ∃ w', s.action? z = some w' ∧ w.state = w'.state := fun {z w} e => by
    rw [record.action named] at e
    split at e
    · subst_vars; exact ⟨a, named, by rw [← Option.some.inj e]⟩
    · exact ⟨w, e, rfl⟩
  obtain ⟨u', hu', eu⟩ := old hu
  obtain ⟨v', hv', ev⟩ := old hv
  rw [eu, ev]
  exact notAfter u' v' hu' hv'

theorem FiredInTurn.storeSound {hs : List Handle} (fired : State.FiredInTurn hs s t) (sound : s.StoreSound fails emptied) :
    t.StoreSound fails emptied := by
  induction fired with
  | done s => exact sound
  | left s t h rest keep more ih => exact ih sound
  | one s u t h rest a named overdue fires more ih =>
    exact ih (sound.handedOver (names_iff.1 named) (by rw [overdue]; exact ⟨nofun, nofun⟩) fires)

theorem DecidedInTurn.storeSound {slots : PerPort Slot} {hs : List Handle} (decided : State.DecidedInTurn slots hs s t)
    (sound : s.StoreSound fails emptied) : t.StoreSound fails emptied := by
  induction decided with
  | done s => exact sound
  | left s t h rest keep more ih => exact ih sound
  | holds s u t h rest a named unresolved decides stored more ih =>
    exact ih (sound.decided (names_iff.1 named) stored (fun _ => id) nofun)
  | fails s u v t h rest a named unresolved decides stored ended more ih =>
    have failing := sound.decided (names_iff.1 named) stored (fails' := fun g => fails g ∨ g = h) (fun _ => .inl)
      fun _ => .inr rfl
    have now : u.action? h = some { a with condState := .fails } := stored.1.action_self (names_iff.1 named)
    exact ih ((failing.endedWhole now ended).mono (fun g f => f.1.resolve_right f.2) fun _ => id)

theorem ReplacedInTurn.storeSound {hs : List Handle} (replaced : State.ReplacedInTurn hs s t)
    (sound : s.StoreSound fails emptied) : t.StoreSound fails emptied := by
  induction replaced with
  | done s => exact sound
  | left s t h rest keep more ih => exact ih sound
  | one s u t h rest a named armed ahead placed more ih =>
    obtain ⟨record, placed, rest, free, -⟩ := placed
    have named := names_iff.1 named
    have self : u.inPart3 h = true := by simp [State.inPart3, record.action_self named]
    refine ih (sound.rephases named (b := { a with state := .ahead }) (.of_armed record ⟨rfl, rfl, rfl⟩ (fun stamped => ?_)
      (.inr ⟨armed, .inl rfl⟩) placed.1 placed.nodup (fun here g => (placed.mem g).trans (or_iff_left_of_imp fun e => e ▸ here))
      (fun sorted => placed.parts sorted (fun x other => record.action_other named other) self) rest free) (fun _ => id) .inl)
    obtain e | e := armed <;> simpa [Action.Stamped, e] using stamped

theorem ReachedInTurn.storeSound {hs : List Handle} (reached : State.ReachedInTurn hs s t)
    (sound : s.StoreSound fails emptied) : t.StoreSound fails emptied := by
  induction reached with
  | done s => exact sound
  | left s t h rest keep more ih => exact ih sound
  | one s u t h rest a named ahead reached more ih => exact ih (sound.fireReached (names_iff.1 named) ahead reached)

/-! ### A binding (R76, R83) -/

/-- Whether the item with a number is live, not LEAVING, and holds at most `k` actions. -/
def TakesActions (s : State) (n : Half) (k : Nat) : Prop :=
  ∃ it ∈ s.items.live, it.number = n ∧ it.state ≠ .leaving ∧ it.actions.length ≤ k

theorem TakesActions.mono {n : Half} {k l : Nat} (takes : s.TakesActions n k) (le : k ≤ l) : s.TakesActions n l := by
  obtain ⟨it, live, number, state, few⟩ := takes
  exact ⟨it, live, number, state, few.trans le⟩

theorem Bound.action {h : Handle} {a : Action} (bound : s.Bound t h a) (pool : s.PoolSound) (g : Handle) :
    t.action? g = if g = h then some a else s.action? g := by
  obtain ⟨i, free, handle, entry⟩ := bound.entry
  obtain ⟨generation, index⟩ := (makeHandle_iff _ _ _).1 handle
  have unbound : (s.entry i).action = none := (pool.free i).1 (free ▸ List.mem_cons_self)
  by_cases own : g = h
  · subst own
    rw [if_pos rfl]
    unfold State.action?
    rw [← index, entry, if_pos rfl]
    exact if_pos generation
  · rw [if_neg own]
    by_cases here : handleIndex g = i
    · have other : (s.entry i).generation ≠ handleGeneration g := fun e =>
        own (((makeHandle_iff _ _ g).2 ⟨e, here.symm⟩).trans handle.symm)
      unfold State.action?
      rw [here, entry, if_pos rfl]
      exact (if_neg other).trans (if_neg other).symm
    · exact action_congr (by rw [entry, if_neg here])

theorem PoolSound.bound {h : Handle} {a : Action} (pool : s.PoolSound) (bound : s.Bound t h a) (own : a.handle = h) :
    t.PoolSound := by
  obtain ⟨i, free, handle, entry⟩ := bound.entry
  have once := pool.freeOnce
  rw [free, List.nodup_cons] at once
  refine ⟨fun j b e => ?_, fun j => ?_, once.2, fun j => ?_⟩
  · rw [entry] at e ⊢
    split at e
    · obtain rfl := Option.some.inj e
      rw [if_pos ‹_›, own, handle]
      subst_vars; rfl
    · rw [if_neg ‹_›]; exact pool.ownHandle j b e
  · rw [entry]
    split
    · exact pool.generations i
    · exact pool.generations j
  · rw [entry]
    have := pool.free j
    rw [free, List.mem_cons] at this
    split
    · subst_vars; simpa using once.1
    · rw [← this, or_iff_right ‹_›]

/-- A binding keeps the store where its item takes another action. -/
theorem StoreSound.bound {h : Handle} {a : Action} (sound : s.StoreSound fails emptied) (bound : s.Bound t h a)
    (own : a.handle = h) (ahead : a.state = .ahead) (stamped : a.Stamped) {k : Nat} (room : k < 16)
    (takes : s.TakesActions a.item k) : t.StoreSound (fun g => fails g ∨ g = h ∧ a.condState = .fails) emptied := by
  have action := bound.action sound.pool
  have unbound : s.action? h = none := by
    obtain ⟨i, free, handle, -⟩ := bound.entry
    obtain ⟨-, index⟩ := (makeHandle_iff _ _ _).1 handle
    have none_ : (s.entry i).action = none := (sound.pool.free i).1 (free ▸ List.mem_cons_self)
    unfold State.action?
    dsimp only
    rw [← index, none_]
    exact ite_self _
  have others : ∀ x, x ≠ h → t.action? x = s.action? x := fun x other => (action x).trans (if_neg other)
  have absent : ∀ {xs : List Handle} {P : Action → Prop}, (∀ g, g ∈ xs ↔ ∃ b, s.action? g = some b ∧ P b) → h ∉ xs :=
    fun {xs P} iff m => by
      obtain ⟨b, e, -⟩ := (iff h).1 m
      rw [unbound] at e
      cases e
  have joined : ∀ (P : Action → Prop) (g : Handle),
      (∃ b, t.action? g = some b ∧ P b) ↔ (∃ b, s.action? g = some b ∧ P b) ∨ g = h ∧ P a := fun P g => by
    rw [action]
    split <;> simp [*]
  have old : ∀ {g y}, t.action? g = some y → g = h ∧ y = a ∨ g ≠ h ∧ s.action? g = some y := fun {g y} e => by
    rw [action] at e
    split at e
    · exact .inl ⟨‹_›, (Option.some.inj e).symm⟩
    · exact .inr ⟨‹_›, e⟩
  have channel : ∀ c, t.channel c = s.channel c := fun c => by rw [bound.rest.1]; rfl
  have lists : ∀ {y}, y ∈ t.items.live → ∃ x ∈ s.items.live, y.number = x.number ∧ y.state = x.state ∧
      y.actions = if x.number = a.item then x.actions ++ [h] else x.actions := fun {y} live => by
    rw [bound.items] at live
    obtain ⟨x, hx, rfl⟩ := List.mem_map.1 live
    refine ⟨x, hx, ?_⟩
    split <;> exact ⟨rfl, rfl, rfl⟩
  have numbers : t.items.live.map Item.number = s.items.live.map Item.number := by
    rw [bound.items, List.map_map]
    refine List.map_congr_left fun x _ => ?_
    simp only [Function.comp]
    split <;> rfl
  have items : ∀ {n}, (∃ it ∈ s.items.live, it.number = n) → ∃ it ∈ t.items.live, it.number = n := fun e =>
    List.mem_map.1 (numbers ▸ List.mem_map.2 e)
  obtain ⟨it, hit, number, state, few⟩ := takes
  refine
    { pool := sound.pool.bound bound own
      scheduledOnce := fun c => ?_, scheduled := fun c g => ?_, parts := fun c => ?_
      distinct := numbers ▸ sound.distinct
      listedOnce := fun y live => ?_, listed := fun y live g => ?_, itemLives := fun g b e => ?_
      setsOnce := fun c => by rw [channel]; exact sound.setsOnce c
      onSet := fun c g => by rw [channel, sound.onSet, joined]; simp [ahead]
      waitSet := fun c g => by rw [channel, sound.waitSet, joined]; simp [ahead]
      falseOnly := fun g b e failed => ?_, stamped := fun g b e => ?_
      leavingFires := fun y live leaving g b e item => ?_, leavingHolds := fun y live leaving empty => ?_
      templates := fun i => by rw [State.recipe, bound.rest.1]; exact sound.templates i }
  · by_cases here : c = a.channel
    · subst here; exact bound.schedules.nodup (sound.scheduledOnce _)
    · rw [bound.schedules.1 c here]; exact sound.scheduledOnce c
  · rw [joined]
    by_cases here : c = a.channel
    · subst here; rw [bound.schedules.mem, sound.scheduled]; simp
    · rw [bound.schedules.1 c here, sound.scheduled]; simp [Ne.symm here]
  · by_cases here : c = a.channel
    · subst here
      exact bound.schedules.parts (sound.parts _) others (by simp [State.inPart3, action, ahead])
    · rw [bound.schedules.1 c here]
      refine (sound.parts c).imp_of_mem fun {x y} mx my notAfter => ?_
      have other : ∀ {z}, z ∈ s.schedule c → z ≠ h := fun {z} m e => absent (sound.scheduled c) (e ▸ m)
      exact notAfter.transfer (others x (other mx)) (others y (other my))
  · obtain ⟨x, hx, -, -, actions⟩ := lists live
    obtain ⟨once, length⟩ := sound.listedOnce x hx
    rw [actions]
    split
    · rename_i here
      obtain rfl := sound.item_unique hx hit (here.trans number.symm)
      refine ⟨List.nodup_append.2 ⟨once, List.nodup_singleton _, fun g m y last e => ?_⟩, ?_⟩
      · exact absent (sound.listed x hx) (List.mem_singleton.1 last ▸ e ▸ m)
      · rw [List.length_append, List.length_singleton]; omega
    · exact ⟨once, length⟩
  · obtain ⟨x, hx, e, -, actions⟩ := lists live
    rw [joined, actions, e]
    split
    · rename_i here; rw [List.mem_append, List.mem_singleton, sound.listed x hx]; simp [here]
    · rename_i other; rw [sound.listed x hx]; simp [Ne.symm other]
  · obtain ⟨-, rfl⟩ | ⟨-, e⟩ := old e
    · exact items ⟨it, hit, number⟩
    · exact items (sound.itemLives g b e)
  · obtain ⟨e, rfl⟩ | ⟨-, e⟩ := old e
    · exact .inr ⟨e, failed⟩
    · exact .inl (sound.falseOnly g b e failed)
  · obtain ⟨-, rfl⟩ | ⟨-, e⟩ := old e
    · exact stamped
    · exact sound.stamped g b e
  · obtain ⟨x, hx, e', state', -⟩ := lists live
    obtain ⟨-, rfl⟩ | ⟨-, e⟩ := old e
    · obtain rfl := sound.item_unique hx hit (e'.symm.trans (item.symm.trans number.symm))
      exact absurd (state' ▸ leaving) state
    · exact sound.leavingFires x hx (state' ▸ leaving) g b e (item.trans e')
  · obtain ⟨x, hx, e, state', actions⟩ := lists live
    rw [actions] at empty
    split at empty
    · simp at empty
    · rw [e]; exact sound.leavingHolds x hx (state' ▸ leaving) empty

end State
end Sys2Proof.Machine
end

section
/-! PROOFS. What runs within an event keeps the Action Store: `State.KeepsStore` for each operation of a count, an edge, a
verdict, a removal and a creation. -/
namespace Sys2Proof.Machine

namespace State

/-- From the one state to the other the Action Store stays as it may stand inside an event. -/
structure KeepsStore (s t : State) : Prop where
  store : ∀ {fails : Handle → Prop} {emptied : Half → Prop}, s.StoreSound fails emptied → t.StoreSound fails emptied

variable {s t u : State} {fails : Handle → Prop} {emptied : Half → Prop}

theorem KeepsStore.refl (s : State) : s.KeepsStore s := ⟨id⟩

theorem KeepsStore.trans (h1 : s.KeepsStore t) (h2 : t.KeepsStore u) : s.KeepsStore u :=
  ⟨fun sound => h2.store (h1.store sound)⟩

theorem KeepsStore.foldl {α : Type} (f : State → α → State) (h : ∀ (s : State) (x : α), s.KeepsStore (f s x))
    (xs : List α) (s : State) : s.KeepsStore (xs.foldl f s) :=
  foldl_related (fun s t => s.KeepsStore t) KeepsStore.refl (fun _ _ _ => KeepsStore.trans) f h xs s

/-! ### Changes that the store does not see -/

theorem KeepsStore.of_lists (actions : t.actions = s.actions) (channels : t.channels = s.channels) (items : s.SameLists t)
    (bodies : ∀ i, (t.recipe i).body = (s.recipe i).body) : s.KeepsStore t :=
  ⟨fun sound => sound.congr actions (fun c => by rw [State.channel, channels]; exact ⟨rfl, rfl⟩) items
    fun i => by rw [bodies]; exact sound.templates i⟩

theorem KeepsStore.plain (actions : t.actions = s.actions) (channels : t.channels = s.channels)
    (items : t.items.live = s.items.live) (recipes : t.recipes.store = s.recipes.store) : s.KeepsStore t :=
  .of_lists actions channels (.of_eq items) fun i => by rw [State.recipe, recipes]; rfl

theorem KeepsStore.of_updItem (s : State) (n : Half) (f : Item → Item) (number : ∀ x, (f x).number = x.number)
    (actions : ∀ x, (f x).actions = x.actions) (state : ∀ x, (f x).state = .leaving → x.state = .leaving) :
    s.KeepsStore (s.updItem n f) :=
  .of_lists rfl rfl (.of_updItem s n f number actions state) fun _ => rfl

theorem KeepsStore.post (s : State) (n : Half) (x : Position) (b : NoticeBody) : s.KeepsStore (s.post n x b) :=
  .plain (by simp) (by simp) (by simp) (by simp)

theorem KeepsStore.changeHold (s : State) (after : Half) (o : HoldOrigin) (q : Option Port) :
    s.KeepsStore (s.changeHold after o q) := by
  have whole := (s.changeHold_changed after o q).1
  exact .plain (by rw [whole]) (by rw [whole]) (by rw [whole]) (by rw [whole])

theorem KeepsStore.raiseHold (s : State) (cause : Half) : s.KeepsStore (s.raiseHold cause) := by
  have whole := s.raiseHold_eq cause
  exact .plain (by rw [whole]) (by rw [whole]) (by rw [whole]) (by rw [whole])

theorem KeepsStore.choose (s : State) (n : Nat) : s.KeepsStore (s.choose n).2 := by
  obtain ⟨f, whole⟩ := s.choose_eq n
  exact .plain (by rw [whole]) (by rw [whole]) (by rw [whole]) (by rw [whole])

theorem KeepsStore.of_channels (actions : t.actions = s.actions) (items : t.items = s.items) (recipes : t.recipes = s.recipes)
    (sets : ∀ c, (t.channel c).onSet = (s.channel c).onSet ∧ (t.channel c).waitSet = (s.channel c).waitSet) :
    s.KeepsStore t :=
  ⟨fun sound => sound.congr actions sets (.of_eq (by rw [items]))
    fun i => by rw [State.recipe, recipes]; exact sound.templates i⟩

theorem KeepsStore.markGaps (s t : State) : t.KeepsStore (s.markGaps t) :=
  .of_channels rfl rfl rfl fun c => by rw [channel_markGaps]; split <;> exact ⟨rfl, rfl⟩

theorem KeepsStore.settleGaps (s : State) : s.KeepsStore s.settleGaps :=
  .of_channels rfl rfl rfl fun c => by rw [settleGaps_channel]; exact ⟨rfl, rfl⟩

/-! ### Endings and removals -/

theorem KeepsStore.endAction (s : State) (h : Handle) (o : ActionOutcome) : s.KeepsStore (s.endAction h o) := by
  cases named : s.action? h with
  | none => rw [endAction_stale o named]; exact .refl s
  | some a => exact ⟨fun sound => (sound.endedWhole named (endAction_whole o named)).mono (fun _ => And.left) fun _ => id⟩

theorem KeepsStore.endActions (s : State) (o : ActionOutcome) (hs : List Handle) :
    s.KeepsStore (hs.foldl (fun t h => t.endAction h o) s) :=
  .foldl _ (fun s h => .endAction s h o) hs s

/-- The endings SKIPPED that an event owes settle what it has excepted. -/
theorem StoreSound.skip {hs : List Handle} (sound : s.StoreSound (fun g => fails g ∨ g ∈ hs) emptied) (o : ActionOutcome) :
    (hs.foldl (fun t h => t.endAction h o) s).StoreSound fails emptied :=
  ((endActions_inTurn o hs s).storeSound sound).mono (fun _ f => f.1.resolve_right f.2) fun _ => id

theorem KeepsStore.exitHead (s : State) : s.KeepsStore s.exitHead :=
  ⟨fun sound => s.exitHead_runs.storeSound sound⟩

theorem StoreSound.takenOut {it : Item} {reason : ExitReason} (sound : s.StoreSound fails emptied) (live : it ∈ s.items.live)
    (takenOut : s.TakenOut t it reason) : t.StoreSound fails emptied := by
  obtain ⟨u, cut, removed⟩ := takenOut
  have after := sound.cut cut fun h m a => sound.own_item live m a
  have free : ∀ h a, u.action? h = some a → a.item ≠ it.number := fun h a named item => by
    obtain ⟨before, kept⟩ := CutEach.action cut named
    exact absurd (kept ((sound.listed it live h).2 ⟨a, before, item⟩)) (Option.some_ne_none _)
  exact (after.itemRemoved removed free).mono (fun _ => id) fun m h => h.1.resolve_right h.2

theorem KeepsStore.takeOut (s : State) (n : Half) (reason : ExitReason) : s.KeepsStore (s.takeOut n reason) := by
  cases found : s.item? n with
  | none => unfold State.takeOut; rw [found]; exact .refl s
  | some it => exact ⟨fun sound => sound.takenOut (mem_of_item found) (takeOut_takenOut found reason)⟩

/-! ### Verdict slots, checkpoints and watched points -/

theorem KeepsStore.resolveItem (s : State) (n : Half) : s.KeepsStore (s.resolveItem n) := by
  unfold State.resolveItem
  split
  · exact .refl s
  · exact ⟨fun sound => (fireOverdues_fired _ _).storeSound ((resolveActions_decided _ _ s).storeSound sound)⟩

theorem KeepsStore.postDecided (s : State) (n : Half) (src : CloseSource) : s.KeepsStore (s.postDecided n src) := by
  unfold State.postDecided
  split
  · exact .refl s
  · dsimp only
    split
    · exact .refl s
    · exact .post _ _ _ _

theorem KeepsStore.closeSlots (s : State) (n : Half) (slots : PerPort Slot) (held : Bool) (src : CloseSource) :
    s.KeepsStore (s.closeSlots n slots held src) := by
  have closed : s.KeepsStore (s.updItem n fun it => { it with slots := slots }) :=
    .of_updItem s n _ (fun _ => rfl) (fun _ => rfl) fun _ => id
  unfold State.closeSlots
  dsimp only
  refine .trans (closed.trans ?_) ((KeepsStore.resolveItem _ n).trans (.postDecided _ n src))
  split
  · exact .raiseHold _ _
  · exact .refl _

theorem KeepsStore.closeAtDecision (s : State) (n : Half) (p : Port) : s.KeepsStore (s.closeAtDecision n p) := by
  unfold State.closeAtDecision
  split
  · exact .refl s
  · split
    · exact .closeSlots _ _ _ _ _
    · exact .refl s

theorem KeepsStore.forceClose (s : State) (n : Half) : s.KeepsStore (s.forceClose n) := by
  unfold State.forceClose
  split
  · exact .refl s
  · split
    · exact .closeSlots _ _ _ _ _
    · exact .refl s

theorem KeepsStore.jamItem (s : State) (n : Half) : s.KeepsStore (s.jamItem n) := by
  unfold State.jamItem
  split
  · exact .refl s
  · have tracked : s.KeepsStore (s.updItem n fun x => { x with state := .tracked, flags := { x.flags with jam := true } }) :=
      .of_updItem s n _ (fun _ => rfl) (fun _ => rfl) fun _ e => by cases e
    exact (tracked.trans (.post _ _ _ _)).trans (.raiseHold _ _)

theorem KeepsStore.onMissAction (s : State) (n : Half) (m : OnMiss) : s.KeepsStore (s.onMissAction n m) := by
  cases m with
  | note => exact .refl s
  | hold => exact .raiseHold _ _
  | reject => exact .forceClose _ _
  | remove => exact .takeOut _ _ _

theorem KeepsStore.missCheckpoint (s : State) (n : Half) (k : Fin 8) : s.KeepsStore (s.missCheckpoint n k) := by
  unfold State.missCheckpoint
  split
  · exact .refl s
  · have marked : s.KeepsStore (s.updItem n fun x =>
        { x with marks := x.marks ++ [⟨k, .missed⟩], flags := { x.flags with missed := true } }) :=
      .of_updItem s n _ (fun _ => rfl) (fun _ => rfl) fun _ => id
    exact (marked.trans (.post _ _ _ _)).trans (.onMissAction _ _ _)

theorem KeepsStore.actOnPoint (s : State) (n : Half) (w : ItemPoint) : s.KeepsStore (s.actOnPoint n w) := by
  cases w with
  | jam => exact .jamItem s n
  | decision p => exact .closeAtDecision s n p
  | missEnd k => exact .missCheckpoint s n k
  | exit => exact .exitHead s

theorem KeepsStore.walkPoints (j : Nat) (x : Option Position) (n : Half) (s : State) :
    s.KeepsStore (State.walkPoints j x n s) := by
  induction j generalizing s with
  | zero => exact .refl s
  | succ j ih =>
    unfold State.walkPoints
    dsimp only
    split
    · exact .refl s
    · exact ((KeepsStore.choose s _).trans (.actOnPoint _ _ _)).trans (ih _)

theorem KeepsStore.replaceActions (s : State) (n : Half) : s.KeepsStore (s.replaceActions n) := by
  unfold State.replaceActions
  split
  · exact .refl s
  · exact ⟨fun sound => (reachAheads_inTurn _ _).storeSound ((replaceActions_inTurn _ s).storeSound sound)⟩

theorem KeepsStore.matchItem (s : State) (k : Fin 8) (x : Position) (it : Item) : s.KeepsStore (s.matchItem k x it) := by
  unfold State.matchItem
  dsimp only
  generalize slipOf _ _ _ = slip
  have matched : s.KeepsStore (s.updItem it.number fun r =>
      { r with correction := r.correction + slip, marks := r.marks ++ [⟨k, .matched slip⟩] }) :=
    .of_updItem s it.number _ (fun _ => rfl) (fun _ => rfl) fun _ => id
  exact ((matched.trans (.post _ _ _ _)).trans (.replaceActions _ _)).trans (.walkPoints _ _ _ _)

theorem KeepsStore.checkpointEdge (s : State) (k : Fin 8) (x : Position) : s.KeepsStore (s.checkpointEdge k x) := by
  unfold State.checkpointEdge
  split
  · exact .matchItem _ _ _ _
  · exact .post _ _ _ _

/-! ### The Stage Queue -/

theorem KeepsStore.applyStage (s : State) : s.KeepsStore s.applyStage := by
  unfold State.applyStage
  split
  · exact .refl s
  · exact .plain (by simp) (by simp) (by simp) (by simp)

theorem KeepsStore.checkStage (j : Nat) (s : State) : s.KeepsStore (State.checkStage j s) := by
  induction j generalizing s with
  | zero => exact .refl s
  | succ j ih =>
    unfold State.checkStage
    split
    · split
      · exact .refl s
      · exact (KeepsStore.applyStage s).trans (ih _)
    · exact .refl s

/-! ### Displacement and binding (R83, R86) -/

theorem Ended.takesActions {h : Handle} {a : Action} {o : ActionOutcome} {n : Half} {k : Nat} (ended : s.Ended t h a o)
    (takes : s.TakesActions n k) : t.TakesActions n k := by
  obtain ⟨it, live, number, state, few⟩ := takes
  refine ⟨if it.number = a.item then { it with actions := it.actions.filter (fun x => x ≠ a.handle) } else it, ?_, ?_⟩
  · rw [ended.items]; exact List.mem_map.2 ⟨it, live, rfl⟩
  · split
    · exact ⟨number, state, (List.length_filter_le _ _).trans few⟩
    · exact ⟨number, state, few⟩

theorem Bound.takesActions {h : Handle} {a : Action} {n : Half} {k : Nat} (bound : s.Bound t h a)
    (takes : s.TakesActions n k) : t.TakesActions n (k + 1) := by
  obtain ⟨it, live, number, state, few⟩ := takes
  refine ⟨if it.number = a.item then { it with actions := it.actions ++ [h] } else it, ?_, ?_⟩
  · rw [bound.items]; exact List.mem_map.2 ⟨it, live, rfl⟩
  · split
    · exact ⟨number, state, by rw [List.length_append]; exact Nat.add_le_add_right few 1⟩
    · exact ⟨number, state, few.trans (Nat.le_succ k)⟩

/-- Endings of ARMED actions take no item out, and leave each item open for actions. -/
theorem EndsInTurn.takesActions {o : ActionOutcome} {hs : List Handle} {n : Half} {k : Nat}
    (ends : State.EndsInTurn o hs s t) (sound : s.StoreSound fails emptied)
    (armed : ∀ h ∈ hs, ∀ a, s.action? h = some a → a.state ≠ .on ∧ a.state ≠ .waitGap) (takes : s.TakesActions n k) :
    t.TakesActions n k := by
  induction ends generalizing fails with
  | done s => exact takes
  | stale s t h rest none more ih => exact ih sound (fun g m => armed g (.tail _ m)) takes
  | one s u t h rest a named ended more ih =>
    have named := names_iff.1 named
    obtain ⟨on, waits⟩ := armed h (.head _) a named
    have core := ended.1 fun it completes => by
      obtain ⟨found, leaving, -⟩ := completes
      have := sound.leavingFires it (mem_of_item found) leaving h a named (number_of_item found).symm
      exact this.elim on waits
    refine ih (sound.endedWhole named ended) (fun g m b e => ?_) (core.takesActions takes)
    rw [core.action named] at e
    split at e
    · cases e
    · exact armed g (.tail _ m) b e

/-- The actions that a conflict check has displaced are ARMED. -/
theorem Accepts.armed {c : Fin 16} {y : Poster} {x : Position} {w : Width} {hs : List Handle}
    (sound : s.StoreSound fails emptied) (accepts : s.Accepts c y (s.conflicts c x w) hs) :
    ∀ h ∈ hs, ∀ a, s.action? h = some a → a.state ≠ .on ∧ a.state ≠ .waitGap := by
  obtain ⟨-, rfl⟩ | ⟨-, -, rfl, low⟩ := accepts
  · simp
  · intro h m a named
    obtain ⟨b, mb, rfl⟩ := List.mem_map.1 m
    obtain ⟨g, -, e⟩ := List.mem_filterMap.1 (List.mem_filter.1 mb).1
    rw [sound.pool.handle e, e] at named
    obtain rfl := Option.some.inj named
    exact ⟨(low b mb).1, (low b mb).2.1⟩

theorem BindRequest.stamped (r : BindRequest) (h : Handle) (order : Nat) : (r.record h order).Stamped := by
  simp [Action.Stamped, BindRequest.record]

/-- Templates offered for an item that takes actions: each template gives it one action at most. -/
theorem TemplatesOffered.storeSound {n : Half} {x : Position} {slots : PerPort Slot} {ts : List Template} {c m : Nat}
    {f : Bool} {skipped : List Handle} (offered : State.TemplatesOffered n x slots ts s t c m f skipped)
    (sound : s.StoreSound fails emptied) {k : Nat} (takes : s.TakesActions n k) (room : k + ts.length ≤ 16) :
    t.StoreSound (fun g => fails g ∨ g ∈ skipped) emptied := by
  have next : ∀ {k r : Nat}, k + (r + 1) ≤ 16 → k + r ≤ 16 := by omega
  induction offered generalizing fails k with
  | done s => exact sound.mono (fun _ => .inl) fun _ => id
  | behind s t y rest c m f sk behind more ih => exact ih sound takes (next room)
  | noEntry s t y rest c m f sk ahead none more ih => exact ih sound takes (next room)
  | refused s t y rest c m f sk ahead entry open_ refused more ih => exact ih sound takes (next room)
  | bound s d u t y rest c m f sk hs h ahead entry accepted displaced bound more ih =>
    have armed : ∀ h ∈ hs, ∀ a, s.action? h = some a → a.state ≠ .on ∧ a.state ≠ .waitGap := by
      obtain ⟨-, rfl⟩ | ⟨-, accepts⟩ := accepted
      · simp
      · exact accepts.armed sound
    have before := (displaced.storeSound sound).mono (fun _ => And.left) fun _ => id
    have open_ := displaced.takesActions sound armed takes
    have room : k + rest.length + 1 ≤ 16 := room
    have after := before.bound bound rfl rfl (by simp [Action.Stamped]) (k := k) (by omega) open_
    refine (ih after (bound.takesActions open_) (k := k + 1) (by omega)).mono (fun g e => ?_) fun _ => id
    split
    · obtain (e | ⟨rfl, -⟩) | e := e
      · exact .inl e
      · exact .inr (.head _)
      · exact .inr (.tail _ e)
    · rename_i holds
      obtain (e | ⟨-, e⟩) | e := e
      · exact .inl e
      · exact absurd e holds
      · exact .inr e

end State
end Sys2Proof.Machine
end

section
/-! PROOFS. Every command and event keeps the Action Store (R76, R78 to R80, R136). -/
namespace Sys2Proof.Machine

namespace State

variable {s t u : State} {fails : Handle → Prop} {emptied : Half → Prop}

/-! ### The creation of an item (R38) -/

theorem StoreSound.addItem (sound : s.StoreSound fails emptied) (items : s.ItemsSound) (room : s.items.live.length < 64)
    (x : Position) :
    (s.addItem x).2.StoreSound fails emptied ∧ (s.addItem x).2.TakesActions (s.addItem x).1 0 := by
  obtain ⟨-, new⟩ := firstFreeNumber_spec (live := s.items.live) items.next (by omega)
  let it := newItem (s.addItem x).1 x s.recipes.current (newSlots (s.recipe s.recipes.current).body.voter)
  have live : (s.addItem x).2.items.live = s.items.live ++ [it] := rfl
  have mem : ∀ {y}, y ∈ (s.addItem x).2.items.live → y ∈ s.items.live ∨ y = it := fun {y} m => by
    rw [live, List.mem_append, List.mem_singleton] at m; exact m
  have unused : ∀ h a, s.action? h = some a → a.item ≠ it.number := fun h a named e => by
    obtain ⟨z, hz, number⟩ := sound.itemLives h a named
    exact new z hz (number.trans e)
  refine ⟨
    { pool := ⟨sound.pool.ownHandle, sound.pool.generations, sound.pool.freeOnce, sound.pool.free⟩
      scheduledOnce := sound.scheduledOnce, scheduled := sound.scheduled, parts := sound.parts
      distinct := (items.addItem x room).distinct
      listedOnce := fun y m => ?_, listed := fun y m h => ?_
      itemLives := fun h a named => ?_
      setsOnce := sound.setsOnce, onSet := sound.onSet, waitSet := sound.waitSet
      falseOnly := sound.falseOnly, stamped := sound.stamped
      leavingFires := fun y m leaving => ?_, leavingHolds := fun y m leaving => ?_
      templates := fun i => ?_ }, it, ?_, rfl, nofun, Nat.le_refl 0⟩
  · obtain m | rfl := mem m
    · exact sound.listedOnce y m
    · exact ⟨List.nodup_nil, Nat.zero_le 16⟩
  · obtain m | rfl := mem m
    · exact sound.listed y m h
    · exact ⟨fun m => absurd m List.not_mem_nil, fun ⟨a, named, e⟩ => absurd e (unused h a named)⟩
  · obtain ⟨y, m, number⟩ := sound.itemLives h a named
    exact ⟨y, by rw [live]; exact List.mem_append_left _ m, number⟩
  · obtain m | rfl := mem m
    · exact sound.leavingFires y m leaving
    · cases leaving
  · obtain m | rfl := mem m
    · exact sound.leavingHolds y m leaving
    · cases leaving
  · rw [((Runs.addItem (k := True) s x room).body i).2]; exact sound.templates i
  · rw [live]; exact List.mem_append_right _ (List.mem_singleton_self _)

theorem StoreSound.offerTemplates (sound : s.StoreSound fails emptied) {n : Half} (takes : s.TakesActions n 0) (x : Position) :
    (s.offerTemplates n x).1.StoreSound (fun g => fails g ∨ g ∈ (s.offerTemplates n x).2.skipped) emptied := by
  obtain ⟨-, c, m, f, skipped, offered, tally⟩ := offers_offered n x
    (newSlots (s.recipe s.recipes.current).body.voter) (s.recipe s.recipes.current).body.templates s ⟨0, 0, false, []⟩
  have after := offered.storeSound sound takes (by have := sound.templates s.recipes.current; omega)
  unfold State.offerTemplates
  dsimp only
  rw [tally]
  have counted : ∀ {u : State} (missing : Nat), u.KeepsStore (u.updItem n fun it =>
      { it with missing := missing, flags := { it.flags with incomplete := missing ≠ 0 } }) := fun {u} missing =>
    .of_updItem u n _ (fun _ => rfl) (fun _ => rfl) fun _ => id
  simp only [List.nil_append]
  split
  · exact (KeepsStore.raiseHold _ _).store ((counted _).store after)
  · exact (counted _).store after

theorem KeepsStore.createItem (s : State) (items : s.ItemsSound) (room : s.items.live.length < 64) (x : Position) :
    s.KeepsStore (s.createItem x) := by
  have switched : s.KeepsStore (if s.nextEntryStaged then s.applyStage else s) ∧
      (if s.nextEntryStaged then s.applyStage else s).ItemsSound ∧
      (if s.nextEntryStaged then s.applyStage else s).items.live.length < 64 := by
    split
    · exact ⟨.applyStage s, (Runs.applyStage (k := True) s).items items, by rw [applyStage_items]; exact room⟩
    · exact ⟨.refl s, items, room⟩
  unfold State.createItem
  dsimp only
  generalize (if s.nextEntryStaged then s.applyStage else s) = s0 at switched
  obtain ⟨first, items, room⟩ := switched
  refine first.trans ⟨fun sound => ?_⟩
  obtain ⟨added, takes⟩ := sound.addItem items room x
  have offered := added.offerTemplates takes x
  generalize (s0.addItem x).2.offerTemplates (s0.addItem x).1 x = r at offered
  have skipped := StoreSound.skip ((KeepsStore.post r.1 (s0.addItem x).1 x (.itemEnter r.1.recipes.current
    (r.1.recipe r.1.recipes.current).body.voter r.2.created r.2.missing)).store offered) .skipped
  have walked := (KeepsStore.walkPoints maxItemPoints (some x) (s0.addItem x).1 _).store skipped
  split
  · exact (KeepsStore.checkStage _ _).store walked
  · exact walked

/-! ### Edges of the detect inputs -/

theorem KeepsStore.acceptEntry (s : State) (items : s.ItemsSound) (x : Position) : s.KeepsStore (s.acceptEntry x) := by
  unfold State.acceptEntry
  split
  · exact .createItem s items ‹_› x
  · have counted : s.KeepsStore { s with items :=
        { s.items with entryLost := saturatingSucc s.items.entryLost, trailing := .discard } } := .plain rfl rfl rfl rfl
    exact (counted.trans (.post _ _ _ _)).trans (.raiseHold _ _)

theorem KeepsStore.entryLeading (s : State) (items : s.ItemsSound) (x : Position) : s.KeepsStore (s.entryLeading x) := by
  unfold State.entryLeading
  split
  · exact .acceptEntry s items x
  · split
    · exact .acceptEntry s items x
    · have counted : s.KeepsStore { s with items :=
          { s.items with reEntry := saturatingSucc s.items.reEntry, trailing := .discard } } := .plain rfl rfl rfl rfl
      exact counted.trans (.post _ _ _ _)

theorem KeepsStore.applyLength (s : State) (it : Item) (x : Position) : s.KeepsStore (s.applyLength it x) := by
  unfold State.applyLength
  dsimp only
  have measured : s.KeepsStore (s.updItem it.number fun y =>
      { y with length := some (lengthCheck (s.bodyOf it) it.entry x).1, state := .tracked }) :=
    .of_updItem s it.number _ (fun _ => rfl) (fun _ => rfl) fun _ e => by cases e
  have flagged : ∀ u : State, u.KeepsStore (u.updItem it.number fun y =>
      { y with flags := { y.flags with lengthFault := true } }) := fun u =>
    .of_updItem u it.number _ (fun _ => rfl) (fun _ => rfl) fun _ => id
  split
  · exact measured
  · split
    · exact ((measured.trans (flagged _)).trans (.post _ _ _ _)).trans (.forceClose _ _)
    · exact (measured.trans (flagged _)).trans (.post _ _ _ _)

theorem KeepsStore.entryTrailing (s : State) (x : Position) : s.KeepsStore (s.entryTrailing x) := by
  have cleared : s.KeepsStore { s with items := { s.items with trailing := .nothing } } := .plain rfl rfl rfl rfl
  unfold State.entryTrailing
  dsimp only
  split
  · split
    · split
      · exact cleared.trans (.applyLength _ _ _)
      · exact cleared
    · exact cleared
  · exact cleared

theorem KeepsStore.routeEdge (s : State) (items : s.ItemsSound) (k : Fin 8) (leading : Bool) (x : Position) :
    s.KeepsStore (s.routeEdge k leading x) := by
  unfold State.routeEdge
  split
  · split
    · exact .entryLeading s items x
    · exact .entryTrailing s x
  · split
    · exact .checkpointEdge s k x
    · exact .refl s
  · split
    · exact .post _ _ _ _
    · exact .refl s
  · exact .refl s

theorem KeepsStore.updInput (s : State) (k : Fin 8) (f : Input → Input) : s.KeepsStore (s.updInput k f) :=
  .plain rfl rfl rfl rfl

theorem ItemsSound.updInput (items : s.ItemsSound) (k : Fin 8) (f : Input → Input) : (s.updInput k f).ItemsSound :=
  ⟨items.atMost, items.distinct, items.nonzero, items.next, items.refCounts⟩

theorem KeepsStore.takeEdge (s : State) (items : s.ItemsSound) (k : Fin 8) (x : Position) :
    s.KeepsStore (s.takeEdge k x) := by
  unfold State.takeEdge
  dsimp only
  split
  · exact .updInput s k _
  · exact (KeepsStore.updInput s k fun i => { i with accepted := !(s.input k).accepted, measurement := none }).trans
      (.routeEdge _ (items.updInput k _) _ _ _)

theorem KeepsStore.pinChange (s : State) (items : s.ItemsSound) (k : Fin 8) (level : Bool) :
    s.KeepsStore (s.pinChange k level) := by
  have moved := KeepsStore.updInput s k fun i => { i with pin := level }
  unfold State.pinChange
  dsimp only
  split
  · exact moved
  · split
    · exact moved.trans (.updInput _ _ _)
    · split
      · exact moved.trans (.takeEdge _ (items.updInput k _) _ _)
      · exact moved.trans (.updInput _ _ _)

theorem KeepsStore.filterExpiry (s : State) (items : s.ItemsSound) (k : Fin 8) : s.KeepsStore (s.filterExpiry k) := by
  unfold State.filterExpiry
  split
  · split
    · exact .refl s
    · exact .takeEdge s items k _
  · exact .refl s

/-! ### Counts (R8 to R10) -/

theorem KeepsStore.of_pos (s : State) (x : PositionCounter) : s.KeepsStore { s with pos := x } := .plain rfl rfl rfl rfl

theorem KeepsStore.startMoving (s : State) (d : Direction) : s.KeepsStore (s.startMoving d) :=
  (KeepsStore.of_pos s _).trans (.post _ _ _ _)

theorem KeepsStore.beginExcursion (s : State) : s.KeepsStore s.beginExcursion := by
  exact (((KeepsStore.of_pos s _).trans (.post _ _ _ _)).trans (.raiseHold _ _)).trans (.endActions _ _ _)

/-- A task that stands keeps the store: a fire that stands is that of an AHEAD action. -/
theorem StoreSound.doTask {d : Direction} {task : CountTask} (sound : s.StoreSound fails emptied) (stands : s.Stands d task)
    (free : Nat) : (({ s with free := free } : State).doTask d task).StoreSound fails emptied := by
  have drawn : s.KeepsStore { s with free := free } := .plain rfl rfl rfl rfl
  cases stands with
  | motion => exact (drawn.trans (.startMoving _ d)).store sound
  | excursion => exact (drawn.trans (.beginExcursion _)).store sound
  | point it live offset w watches =>
    cases w with
    | missEnd k => exact ((drawn.trans (.actOnPoint _ it.number (.missEnd k))).trans (.markGaps _ _)).store sound
    | jam => exact (drawn.trans (.actOnPoint _ it.number .jam)).store sound
    | decision p => exact (drawn.trans (.actOnPoint _ it.number (.decision p))).store sound
    | exit => exact (drawn.trans (.actOnPoint _ it.number .exit)).store sound
  | stage i rest head => exact ((drawn.trans (.applyStage _)).trans (.checkStage _ _)).store sound
  | fire c a first =>
    obtain ⟨member, due⟩ := List.mem_filter.1 (List.mem_of_mem_head? first)
    obtain ⟨h, -, named⟩ := List.mem_filterMap.1 member
    have own := sound.pool.handle named
    have ahead : a.state = .ahead := (of_decide_eq_true due).1
    have drawn := drawn.store sound
    have named : ({ s with free := free } : State).action? a.handle = some a := by rw [own]; exact named
    rw [State.doTask, named]
    exact drawn.fireReached named ahead (reachFire_reached named)
  | windowEnd c a first => exact ((drawn.trans (.endAction _ _ _)).trans (.markGaps _ _)).store sound

theorem CountRuns.storeSound {d : Direction} {tasks : List CountTask} (runs : State.CountRuns d tasks s t)
    (sound : s.StoreSound fails emptied) : t.StoreSound fails emptied := by
  induction runs with
  | done s => exact sound
  | next s t task rest free stands more ih => exact ih (sound.doTask stands free)

theorem KeepsStore.takeCount (s : State) (d : Direction) : s.KeepsStore (s.takeCount d) := by
  have moved : s.KeepsStore (s.counted d) := .of_pos s _
  rw [takeCount_eq]
  obtain ⟨tasks, runs⟩ := runTasks_runs (s.counted d).taskBound d (s.counted d)
  exact (moved.trans ⟨runs.storeSound⟩).trans (.settleGaps _)

theorem KeepsStore.decode (s : State) : s.KeepsStore s.decode := by
  have compared := KeepsStore.of_pos s { s.pos with refA := s.pos.phaseA.accepted, refB := s.pos.phaseB.accepted }
  unfold State.decode
  dsimp only
  split
  · exact compared
  · exact compared.trans (.takeCount _ _)
  · split <;> exact ((compared.trans (.choose _ 2)).trans (.takeCount _ _)).trans (.takeCount _ _)
  · exact ((compared.trans (.of_pos _ _)).trans (.post _ _ _ _)).trans (.raiseHold _ _)

theorem KeepsStore.setPhases (s : State) (a b : Phase) : s.KeepsStore (s.setPhases a b) :=
  (KeepsStore.of_pos s { s.pos with phaseA := a, phaseB := b }).trans (.decode _)

theorem KeepsStore.phaseChange (s : State) (a b : Bool) : s.KeepsStore (s.phaseChange a b) := by
  unfold State.phaseChange
  split
  · exact (KeepsStore.decode s).trans (.setPhases _ _ _)
  · exact .of_pos s _

/-! ### Records changed in place: the orphan order and the end of a gap (R102, R140) -/

/-- What a change of all records, each by its handle, makes of the actions that the handles name. -/
theorem action_of_entries {f : Handle → Action → Action}
    (entries : ∀ i, t.entry i =
      ⟨(s.entry i).generation, (s.entry i).action.map (f ((s.entry i).generation ++ BitVec.ofFin (w := 8) i))⟩)
    (h : Handle) : t.action? h = (s.action? h).map (f h) := by
  unfold State.action?
  dsimp only
  rw [entries]
  dsimp only
  split
  · rename_i current
    rw [← (makeHandle_iff _ _ h).2 ⟨current, rfl⟩]
  · rfl

theorem PoolSound.remapped {f : Handle → Action → Action} (pool : s.PoolSound)
    (entries : ∀ i, t.entry i =
      ⟨(s.entry i).generation, (s.entry i).action.map (f ((s.entry i).generation ++ BitVec.ofFin (w := 8) i))⟩)
    (handle : ∀ h a, (f h a).handle = a.handle) (free : t.actions.freeList = s.actions.freeList) : t.PoolSound := by
  refine ⟨fun i b e => ?_, fun i => by rw [entries]; exact pool.generations i, free ▸ pool.freeOnce, fun i => ?_⟩
  · rw [entries] at e ⊢
    obtain ⟨a, bound, rfl⟩ := Option.map_eq_some_iff.1 e
    rw [handle]
    exact pool.ownHandle i a bound
  · rw [free, pool.free, entries, Option.map_eq_none_iff]

/-- A change of records that leaves handle, item, channel and part of each action, with the sets as they then have to
stand. -/
theorem StoreSound.remapped {f : Handle → Action → Action} (sound : s.StoreSound fails emptied)
    (entries : ∀ i, t.entry i =
      ⟨(s.entry i).generation, (s.entry i).action.map (f ((s.entry i).generation ++ BitVec.ofFin (w := 8) i))⟩)
    (place : ∀ h a, (f h a).handle = a.handle ∧ (f h a).item = a.item ∧ (f h a).channel = a.channel ∧
      (f h a).condState = a.condState)
    (phase : ∀ h a, s.action? h = some a → (f h a).state.part = a.state.part ∧ (a.Stamped → (f h a).Stamped))
    (stores : t.actions.freeList = s.actions.freeList ∧ t.actions.schedules = s.actions.schedules)
    (rest : t.items = s.items ∧ t.recipes = s.recipes)
    (setsOnce : ∀ c, (t.channel c).onSet.Nodup ∧ (t.channel c).waitSet.Nodup)
    (onSet : ∀ c h, h ∈ (t.channel c).onSet ↔ ∃ a, t.action? h = some a ∧ a.channel = c ∧ a.state = .on)
    (waitSet : ∀ c h, h ∈ (t.channel c).waitSet ↔ ∃ a, t.action? h = some a ∧ a.channel = c ∧ a.state = .waitGap) :
    t.StoreSound fails emptied := by
  have action := action_of_entries entries
  have schedule : ∀ c, t.schedule c = s.schedule c := fun c => by rw [State.schedule, stores.2]; rfl
  have old : ∀ {h b}, t.action? h = some b → ∃ a, s.action? h = some a ∧ b = f h a := fun {h b} e => by
    rw [action] at e
    obtain ⟨a, named, rfl⟩ := Option.map_eq_some_iff.1 e
    exact ⟨a, named, rfl⟩
  refine sound.rephased (sound.pool.remapped entries (fun h a => (place h a).1) stores.1) (fun h => ?_)
    (fun c => by rw [schedule]; exact sound.scheduledOnce c) (fun c h => by rw [schedule]) (fun c => ?_)
    (by rw [rest.1]) setsOnce onSet waitSet (fun h b e failed => ?_) (fun h b e => ?_) (fun h a b named e firing => ?_) rest.2
  · rw [action, Option.map_map]
    refine congrArg (Option.map · _) (funext fun a => ?_)
    obtain ⟨-, item, channel, -⟩ := place h a
    simp only [Function.comp, item, channel]
  · rw [schedule]
    refine (sound.parts c).imp fun {x y} notAfter a b ha hb => ?_
    obtain ⟨a', ea, rfl⟩ := old ha
    obtain ⟨b', eb, rfl⟩ := old hb
    rw [(phase x a' ea).1, (phase y b' eb).1]
    exact notAfter a' b' ea eb
  · obtain ⟨a, named, rfl⟩ := old e
    exact sound.falseOnly h a named ((place h a).2.2.2 ▸ failed)
  · obtain ⟨a, named, rfl⟩ := old e
    exact (phase h a named).2 (sound.stamped h a named)
  · obtain ⟨a', named', rfl⟩ := old e
    obtain rfl := Option.some.inj (named.symm.trans named')
    have part := (phase h a named).1
    have first : ∀ x : ActionState, x.part = 1 ↔ x = .on ∨ x = .waitGap := fun x => by cases x <;> simp [ActionState.part]
    rw [← first, part, first]
    exact firing

theorem KeepsStore.orphanOrder (s : State) (p : Port) (policy : OrphanPolicy) : s.KeepsStore (s.orphanOrder p policy) := by
  have orphaned := s.orphanOrder_orphaned p policy
  cases policy with
  | cancel => exact .endActions _ _ _
  | keep =>
    obtain ⟨whole, entries⟩ := orphaned
    let f : Handle → Action → Action := fun h a => if h ∈ s.postedBy p then { a with report := none } else a
    have same : ∀ h a, f h a = { a with report := (f h a).report } := fun h a => by
      simp only [f]; split <;> rfl
    have action := action_of_entries (f := f) entries
    have channel : ∀ c, (s.orphanOrder p .keep).channel c = s.channel c := fun c => by rw [whole]; rfl
    have set : ∀ (c : Fin 16) (h : Handle) (x : ActionState), (∃ a, s.action? h = some a ∧ a.channel = c ∧ a.state = x) ↔
        ∃ a, (s.orphanOrder p .keep).action? h = some a ∧ a.channel = c ∧ a.state = x := fun c h x => by
      rw [action]
      cases s.action? h with
      | none => simp
      | some a => simp only [Option.map_some, Option.some.injEq, exists_eq_left']; rw [same]
    exact ⟨fun sound => sound.remapped (f := f) entries (fun h a => by rw [same]; exact ⟨rfl, rfl, rfl, rfl⟩)
      (fun h a _ => by rw [same]; exact ⟨rfl, id⟩) (by rw [whole]; exact ⟨rfl, rfl⟩) (by rw [whole]; exact ⟨rfl, rfl⟩)
      (fun c => by rw [channel]; exact sound.setsOnce c)
      (fun c h => by rw [channel, sound.onSet]; exact set c h .on)
      (fun c h => by rw [channel, sound.waitSet]; exact set c h .waitGap)⟩

end State
end Sys2Proof.Machine
end

section
/-! PROOFS. The commands, the timers and the resets keep the Action Store; every step keeps it (R76, R78 to R80, R136), and the
state right after reset meets every invariant. -/
namespace Sys2Proof.Machine

namespace State

variable {s t u : State} {fails : Handle → Prop} {emptied : Half → Prop}

/-! ### The end of a gap (R140) -/

/-- What the end of a running gap timer makes of the store and of the sets (R140). -/
theorem gapExpiry_turned {c : Fin 16} (running : (s.channel c).gapTimer ≠ none) :
    s.gapExpiry c = { s with
      channels := (s.gapExpiry c).channels, actions := { s.actions with pool := (s.gapExpiry c).actions.pool } } ∧
    (∀ i, (s.gapExpiry c).entry i = ⟨(s.entry i).generation, (s.entry i).action.map (fun a =>
      if (s.entry i).generation ++ BitVec.ofFin (w := 8) i ∈ (s.channel c).waitSet then turnedOn s.pos.lp a true else a)⟩) ∧
    ((s.gapExpiry c).channel c).onSet = (s.channel c).onSet ++ (s.channel c).waitSet ∧
    ((s.gapExpiry c).channel c).waitSet = [] ∧ ∀ d, d ≠ c → (s.gapExpiry c).channel d = s.channel d := by
  let stopped := s.updChannel c fun ch => { ch with gapTimer := none, waitSet := [], out := .off }
  have due : s.gapExpiry c = (s.channel c).waitSet.foldl (fun t h => t.turnOn c h true) stopped := by
    obtain ⟨gap, timer⟩ := Option.ne_none_iff_exists'.1 running
    unfold State.gapExpiry
    simp only [timer]; rfl
  have self : stopped.channel c = { s.channel c with gapTimer := none, waitSet := [], out := .off } :=
    (s.channel_updChannel c c _).trans (if_pos rfl)
  have other : ∀ d, d ≠ c → stopped.channel d = s.channel d := fun d ne =>
    (s.channel_updChannel c d _).trans (if_neg ne)
  rw [due]
  by_cases waits : (s.channel c).waitSet = []
  · rw [waits]
    refine ⟨rfl, fun i => ?_, ?_, ?_, other⟩
    · simp [stopped]
    · rw [List.foldl_nil, self, List.append_nil]
    · rw [List.foldl_nil, self]
  · obtain ⟨whole, entries⟩ := turnOns_eq c (s.channel c).waitSet stopped waits
    generalize (s.channel c).waitSet.foldl (fun t h => t.turnOn c h true) stopped = t at whole entries
    have channels := congrArg State.channels whole
    refine ⟨by rw [whole]; rfl, fun i => (entries i).trans (by rfl), ?_, ?_, fun d ne => ?_⟩
    · rw [channel_of_set channels, if_pos rfl, self]
    · rw [channel_of_set channels, if_pos rfl, self]
    · rw [channel_of_set channels, if_neg ne]; exact other d ne

theorem KeepsStore.gapExpiry (s : State) (c : Fin 16) : s.KeepsStore (s.gapExpiry c) := by
  by_cases running : (s.channel c).gapTimer = none
  · unfold State.gapExpiry
    simp only [running]
    exact .refl s
  obtain ⟨whole, entries, on, waits, others⟩ := gapExpiry_turned running
  let f : Handle → Action → Action := fun h a => if h ∈ (s.channel c).waitSet then turnedOn s.pos.lp a true else a
  have action := action_of_entries (f := f) entries
  refine ⟨fun sound => ?_⟩
  have waiting : ∀ h a, s.action? h = some a → (h ∈ (s.channel c).waitSet ↔ a.channel = c ∧ a.state = .waitGap) :=
    fun h a named => by simp [sound.waitSet, named]
  have moved : ∀ {h a}, s.action? h = some a → ∀ x : ActionState, (f h a).state = x ↔
      if h ∈ (s.channel c).waitSet then x = .on else a.state = x := fun {h a} _ x => by
    simp only [f]; split <;> simp [turnedOn, eq_comm]
  have channel : ∀ h a, (f h a).channel = a.channel := fun h a => by simp only [f]; split <;> rfl
  have set : ∀ (P : Fin 16 → ActionState → Prop) (h : Handle),
      (∃ a, (s.gapExpiry c).action? h = some a ∧ P a.channel a.state) ↔
        ∃ a, s.action? h = some a ∧ P a.channel (f h a).state := fun P h => by
    rw [action]
    cases s.action? h with
    | none => simp
    | some a => simp [channel]
  refine sound.remapped (f := f) entries (fun h a => by simp only [f]; split <;> exact ⟨rfl, rfl, rfl, rfl⟩)
    (fun h a named => ?_) (by rw [whole]; exact ⟨rfl, rfl⟩) (by rw [whole]; exact ⟨rfl, rfl⟩) (fun d => ?_)
    (fun d h => ?_) (fun d h => ?_)
  · simp only [f]
    split
    · obtain ⟨-, state⟩ := (waiting h a named).1 ‹_›
      refine ⟨by rw [state]; rfl, fun stamped => ?_⟩
      have handed : a.handOver ≠ none := stamped.2.2.2 (.inr state)
      exact ⟨by simp [turnedOn], fun _ => rfl, fun _ => .inl rfl, fun _ => handed⟩
    · exact ⟨rfl, id⟩
  · by_cases here : d = c
    · subst here
      rw [on, waits]
      refine ⟨List.nodup_append.2 ⟨(sound.setsOnce d).1, (sound.setsOnce d).2, fun x mx y my e => ?_⟩, List.nodup_nil⟩
      exact sound.sets_disjoint mx (e ▸ my)
    · rw [others d here]; exact sound.setsOnce d
  · rw [set fun e x => e = d ∧ x = .on]
    by_cases here : d = c
    · subst here
      rw [on, List.mem_append, sound.onSet]
      constructor
      · rintro (⟨a, named, e, state⟩ | m)
        · exact ⟨a, named, e, (moved named _).2 (by split <;> [rfl; exact state])⟩
        · obtain ⟨a, named, e, -⟩ := (sound.waitSet d h).1 m
          exact ⟨a, named, e, (moved named _).2 (by rw [if_pos m])⟩
      · rintro ⟨a, named, e, state⟩
        rw [moved named] at state
        split at state
        · exact .inr ‹_›
        · exact .inl ⟨a, named, e, state⟩
    · rw [others d here, sound.onSet]
      refine exists_congr fun a => and_congr_right fun named => and_congr_right fun e => ?_
      rw [moved named, if_neg fun m => here (e.symm.trans ((waiting h a named).1 m).1)]
  · rw [set fun e x => e = d ∧ x = .waitGap]
    by_cases here : d = c
    · subst here
      rw [waits]
      refine ⟨fun m => absurd m List.not_mem_nil, fun ⟨a, named, e, state⟩ => ?_⟩
      rw [moved named] at state
      split at state
      · cases state
      · rename_i out
        exact absurd ((waiting h a named).2 ⟨e, state⟩) out
    · rw [others d here, sound.waitSet]
      refine exists_congr fun a => and_congr_right fun named => and_congr_right fun e => ?_
      rw [moved named, if_neg fun m => here (e.symm.trans ((waiting h a named).1 m).1)]

/-! ### Sessions and the purge -/

theorem KeepsStore.setPort (s : State) (p : Port) (x : PortState) : s.KeepsStore (s.setPort p x) :=
  .plain (by simp) (by simp) (by simp) (by simp)

theorem KeepsStore.endSession (s : State) (p : Port) (reason : EndReason) : s.KeepsStore (s.endSession p reason) := by
  have leases : s.KeepsStore ((s.updPort p PortState.detach).endLeases p) := by
    have whole := (s.endLeases_moved p).rest
    exact .plain (by rw [whole]; rfl) (by rw [whole]; rfl) (by rw [whole]; rfl) (by rw [whole]; rfl)
  have held : ∀ u : State, u.KeepsStore (u.endHold p reason) := fun u => by
    unfold State.endHold
    dsimp only
    split
    · exact (KeepsStore.changeHold _ _ _ _).trans (.raiseHold _ _)
    · exact .changeHold _ _ _ _
  exact ((leases.trans (.orphanOrder _ _ _)).trans (held _)).trans (.setPort _ _ _)

theorem PurgedInTurn.storeSound {live : List Item} (purged : State.PurgedInTurn live s t)
    (sound : s.StoreSound fails emptied)
    (lists : ∀ it ∈ live, ∀ h a, s.action? h = some a → (h ∈ it.actions ↔ a.item = it.number)) :
    t.StoreSound fails emptied := by
  induction purged with
  | done s => exact sound
  | one s u v t it rest cut removed more ih =>
    have own := lists it (.head _)
    have after := sound.cut cut fun h m a named => (own h a named).1 m
    have before : ∀ {h a}, u.action? h = some a → s.action? h = some a ∧ h ∉ it.actions := fun {h a} named => by
      obtain ⟨was, kept⟩ := CutEach.action cut named
      exact ⟨was, fun m => absurd (kept m) (Option.some_ne_none _)⟩
    have gone := after.removed removed fun h a named item =>
      (before named).2 ((own h a (before named).1).2 item)
    refine ih (gone.mono (fun _ => id) fun m h => h.1.resolve_right h.2) fun x m h a named => ?_
    have actions : v.actions = u.actions := by rw [removed.1]
    rw [action?_congr actions] at named
    exact lists x (.tail _ m) h a (before named).1

theorem KeepsStore.purge (s : State) : s.KeepsStore s.purge := by
  have purged : s.KeepsStore (s.items.live.foldl State.purgeItem s) := ⟨fun sound =>
    (State.purge_inTurn s.items.live s sound.distinct fun it live => ⟨it, sound.item_of_mem live, .refl it⟩).storeSound sound
      fun it live h a named => by rw [sound.listed it live, named]; simp⟩
  exact purged.trans (.plain rfl rfl rfl rfl)

/-! ### The commands -/

/-- A command's answer keeps the store, except for the FALSE actions that end SKIPPED behind its reply. -/
structure AnswersStore (s : State) (r : Answer) : Prop where
  store : ∀ {fails : Handle → Prop} {emptied : Half → Prop}, s.StoreSound fails emptied →
    r.state.StoreSound (fun h => fails h ∨ h ∈ r.skipped) emptied

theorem KeepsStore.answers {r : Answer} (keeps : s.KeepsStore r.state) : s.AnswersStore r :=
  ⟨fun sound => (keeps.store sound).mono (fun _ => .inl) fun _ => id⟩

theorem AnswersStore.refuse (s : State) (r : Result) : s.AnswersStore (refuse s r) := KeepsStore.answers (.refl s)

theorem AnswersStore.finish {r : Answer} (answers : s.AnswersStore r) (p : Port) (code seq : Byte) :
    s.KeepsStore (r.finish p code seq) :=
  ⟨fun sound => StoreSound.skip ((KeepsStore.setPort r.state p _).store (answers.store sound)) .skipped⟩

theorem withBlock_answers {α : Type} {block : Option α} {k : α → Answer} (h : ∀ b, s.AnswersStore (k b)) :
    s.AnswersStore (withBlock s block k) := by
  cases block with
  | none => exact (KeepsStore.refl s).answers
  | some b => exact h b

theorem require_answers {ok : Bool} {r : Result} {k : Answer} (h : ok = true → s.AnswersStore k) :
    s.AnswersStore (require s ok r k) := by
  cases ok with
  | false => exact (KeepsStore.refl s).answers
  | true => exact h rfl

theorem AnswersStore.takePost {p : Port} {b : PostBlock} {c : CondState} {point : Position} {hs : List Handle}
    (armed : ∀ {fails emptied}, s.StoreSound fails emptied →
      ∀ h ∈ hs, ∀ a, s.action? h = some a → a.state ≠ .on ∧ a.state ≠ .waitGap)
    (takes : s.TakesActions b.item 15) : s.AnswersStore (s.takePost p b c point hs) := by
  unfold State.takePost
  split
  · exact (KeepsStore.refl s).answers
  · rename_i h t e
    have displaced := endActions_inTurn .displaced hs s
    have bound := bindAction_bound e
    refine ⟨fun sound => ?_⟩
    have before := (KeepsStore.endActions s .displaced hs).store sound
    refine (before.bound bound rfl rfl (BindRequest.stamped _ _ _) (k := 15) (by omega)
      (displaced.takesActions sound (armed sound) takes)).mono (fun g f => f.imp_right ?_) fun _ => id
    rintro ⟨rfl, failed⟩
    rw [if_pos (show c = .fails from failed)]
    exact List.mem_singleton_self g

theorem AnswersStore.conflictOrPost {p : Port} {b : PostBlock} {c : CondState} {point : Position}
    (takes : s.TakesActions b.item 15) : s.AnswersStore (s.conflictOrPost p b c point) := by
  unfold State.conflictOrPost
  split
  · exact .takePost (by simp) takes
  · split
    · exact (KeepsStore.refl s).answers
    · rename_i hs accepted
      exact .takePost (fun sound => ((s.conflictCheck_cases _ _ _ _).1 hs accepted).armed sound) takes

theorem AnswersStore.postActionBody (p : Port) (s : State) (params : List Byte) :
    s.AnswersStore (postActionBody p s params) := by
  refine withBlock_answers fun b => ?_
  unfold requireChannel
  split
  · split
    · exact .refuse s _
    · rename_i it postable
      obtain ⟨found, state⟩ := Option.filter_eq_some_iff.1 postable
      refine require_answers fun _ => require_answers fun _ => require_answers fun _ => require_answers fun _ =>
        require_answers fun few => require_answers fun _ => .conflictOrPost ⟨it, mem_of_item found, number_of_item found, ?_, ?_⟩
      · simpa using state
      · have : it.actions.length < 16 := of_decide_eq_true few
        omega
  · split <;> exact .refuse s _

theorem readTemplates_length {n : Nat} {ps : List Byte} {ts : List Template} (read : readTemplates n ps = some ts) :
    ts.length = n := by
  induction n generalizing ps ts with
  | zero =>
    simp only [readTemplates] at read
    split at read <;> cases read
    rfl
  | succ n ih =>
    simp only [readTemplates, Option.bind_eq_bind, Option.bind_eq_some_iff, Option.some.injEq] at read
    obtain ⟨t, -, rest, more, rfl⟩ := read
    rw [List.length_cons, ih more]

theorem readRecipeBlock_templates {params : List Byte} {b : RecipeBlock} (read : readRecipeBlock params = some b) :
    b.body.templates.length ≤ 8 := by
  unfold readRecipeBlock at read
  split at read
  · simp only [Option.bind_eq_bind, Option.bind_eq_some_iff] at read
    obtain ⟨_, _, count, _, _, _, _, _, _, _, _, _, _, _, templates, counted, read⟩ := read
    split at read
    · cases read
    · cases read
      have := readTemplates_length counted
      have := count.isLt
      show templates.length ≤ 8
      omega
  · cases read

theorem KeepsStore.of_updRecipe (s : State) (i : Fin 8) (f : Recipe → Recipe) (few : ∀ r, (f r).body.templates.length ≤ 8) :
    s.KeepsStore (s.updRecipe i f) :=
  ⟨fun sound => sound.congr rfl (fun _ => ⟨rfl, rfl⟩) (.of_eq rfl) fun j => by
    rw [recipe_updRecipe]
    split
    · exact few _
    · exact sound.templates j⟩

theorem KeepsStore.writeRecipeBody (p : Port) (s : State) (params : List Byte) :
    s.KeepsStore (writeRecipeBody p s params).state :=
  withBlock_state (.refl s) fun b read => require_state (.refl s) fun _ => require_state (.refl s) fun _ =>
    require_state (.refl s) fun _ => require_state (.refl s) fun _ => require_state (.refl s) fun _ =>
    .of_updRecipe s b.index (fun r => { r with valid := true, body := b.body }) fun _ => readRecipeBlock_templates read

theorem KeepsStore.configLineBody (p : Port) (s : State) (params : List Byte) :
    s.KeepsStore (configLineBody p s params).state := by
  refine withBlock_state (.refl s) fun c _ => require_state (.refl s) fun _ => require_state (.refl s) fun _ => ?_
  dsimp only
  split
  · exact .choose s _
  · have written := s.writeLine_settings c
    exact .plain (by rw [written]) (by rw [written]) (by rw [written]) (by rw [written])

theorem KeepsStore.findPin (s : State) (k : Fin 8) : s.KeepsStore (s.findPin k) := by
  unfold State.findPin
  split
  · exact .refl s
  · dsimp only
    split
    · exact (KeepsStore.choose s 2).trans (.updInput _ _ _)
    · exact .choose s 2

theorem KeepsStore.loadInput (s : State) (k : Fin 8) (old : Input) : s.KeepsStore (s.loadInput k old) := by
  unfold State.loadInput
  dsimp only
  split
  · split <;> exact (KeepsStore.choose s 2).trans (.updInput _ _ _)
  · exact .updInput _ _ _

theorem KeepsStore.rerunInput (s : State) (items : s.ItemsSound) (k : Fin 8) (old : Input) :
    s.KeepsStore (s.rerunInput k old) := by
  unfold State.rerunInput
  dsimp only
  split
  · split
    · exact .refl s
    · exact .updInput _ _ _
  · split
    · exact (KeepsStore.findPin s k).trans (.loadInput _ _ _)
    · split
      · exact .refl s
      · split
        · exact .refl s
        · split
          · exact .takeEdge s items _ _
          · exact .updInput _ _ _

theorem KeepsStore.configInputBody (p : Port) (s : State) (items : s.ItemsSound) (params : List Byte) :
    s.KeepsStore (configInputBody p s params).state :=
  withBlock_state (.refl s) fun b _ => require_state (.refl s) fun _ => require_state (.refl s) fun _ =>
    require_state (.refl s) fun _ => require_state (.refl s) fun _ =>
    (KeepsStore.updInput s b.input _).trans (.rerunInput _ (items.updInput _ _) _ _)

theorem KeepsStore.configChannelBody (p : Port) (s : State) (params : List Byte) :
    s.KeepsStore (configChannelBody p s params).state := by
  refine withBlock_state (.refl s) fun b _ => require_state (.refl s) fun _ => ?_
  split
  · refine .of_channels rfl rfl rfl fun c => ?_
    rw [channel_updChannel]
    split
    · subst_vars; exact ⟨rfl, rfl⟩
    · exact ⟨rfl, rfl⟩
  · exact .refl s

theorem KeepsStore.cancelStageBody (p : Port) (s : State) (params : List Byte) :
    s.KeepsStore (cancelStageBody p s params).state := by
  refine withBlock_state (.refl s) fun all _ => require_state (.refl s) fun _ => require_state (.refl s) fun _ => ?_
  dsimp only
  exact (KeepsStore.choose s _).trans (.plain rfl rfl rfl rfl)

theorem KeepsStore.verdictBody (p : Port) (s : State) (params : List Byte) :
    s.KeepsStore (verdictBody p s params).state := by
  refine withBlock_state (.refl s) fun b _ => ?_
  split
  · exact .refl s
  · split
    · exact .refl s
    · unfold State.storeVerdict
      dsimp only
      split <;> exact .of_updItem _ _ _ (fun _ => rfl) (fun _ => rfl) fun _ => id
    · exact .refl s

/-! ### The resets -/

/-- An empty store is sound, whatever stands elsewhere. -/
theorem StoreSound.of_reset (actions : t.actions = .reset) (live : t.items.live = [])
    (sets : ∀ c, (t.channel c).onSet = [] ∧ (t.channel c).waitSet = [])
    (templates : ∀ i, (t.recipe i).body.templates.length ≤ 8) : t.StoreSound fails emptied := by
  have entry : ∀ i, t.entry i = ⟨1, none⟩ := fun i => by
    rw [State.entry, actions, ActionStore.reset, Vector.get_eq_getElem, Vector.getElem_replicate]
  have schedule : ∀ c, t.schedule c = [] := fun c => by
    rw [State.schedule, actions, ActionStore.reset, Vector.get_eq_getElem, Vector.getElem_replicate]
  have unnamed : ∀ h, t.action? h = none := fun h => by
    unfold State.action?
    rw [entry]
    exact ite_self _
  have free : t.actions.freeList = List.finRange 256 := by rw [actions, ActionStore.reset]
  exact
    { pool := ⟨by simp [entry], by simp [entry], by rw [free]; exact List.nodup_finRange _,
        fun i => by rw [free, entry]; exact iff_of_true (List.mem_finRange i) rfl⟩
      scheduledOnce := by simp [schedule], scheduled := by simp [schedule, unnamed], parts := by simp [schedule]
      distinct := by simp [live], listedOnce := by simp [live], listed := by simp [live], itemLives := by simp [unnamed]
      setsOnce := by simp [sets], onSet := by simp [sets, unnamed], waitSet := by simp [sets, unnamed]
      falseOnly := by simp [unnamed], stamped := by simp [unnamed], leavingFires := by simp [live]
      leavingHolds := by simp [live], templates }

theorem KeepsStore.deviceReset (s : State) (p : Port) : s.KeepsStore (s.deviceReset p) := by
  have whole := s.deviceReset_eq p
  exact ⟨fun sound => .of_reset (by rw [whole]) (by rw [whole]; rfl)
    (fun c => by rw [deviceReset_channel]; exact ⟨rfl, rfl⟩)
    fun i => by rw [deviceReset_recipe]; exact sound.templates i⟩

theorem KeepsStore.powerOn (s : State) : s.KeepsStore s.powerOn :=
  ⟨fun _ => .of_reset rfl rfl (fun c => by rw [powerOn_channel]; exact ⟨rfl, rfl⟩)
    fun i => by rw [powerOn_recipe]; split <;> exact Nat.zero_le 8⟩

theorem KeepsStore.resetPulse (s : State) (lowNs : Nat) : s.KeepsStore (s.resetPulse lowNs) := by
  unfold State.resetPulse
  split
  · exact .refl s
  · split
    · exact .powerOn s
    · dsimp only
      split
      · exact (KeepsStore.choose s 2).trans (.powerOn _)
      · exact .choose s 2

/-! ### Every step -/

theorem AnswersStore.body (name : CommandName) (p : Port) (s : State) (items : s.ItemsSound) (params : List Byte) :
    s.AnswersStore (name.body p s params) := by
  have same := KeepsStore.refl s
  have moved : ∀ {x : PortState}, s.KeepsStore (s.setPort p x) := fun {x} => .setPort s p x
  cases name with
  | postAction => exact .postActionBody p s params
  | attach => exact (require_state same fun _ => withBlock_state same fun _ _ => moved).answers
  | detach => exact (withBlock_state same fun _ _ => .endSession s p .detach).answers
  | portReset =>
    refine (withBlock_state same fun _ _ => ?_).answers
    dsimp only
    split
    · exact .endSession s p .portReset
    · exact moved
  | status | fetch | readPosition | readChannel | listItems => exact (withBlock_state same fun _ _ => same).answers
  | ack =>
    refine (withBlock_state same fun _ _ => ?_).answers
    dsimp only
    split
    · exact same
    · exact moved
  | lease =>
    refine (withBlock_state same fun b _ => require_state same fun _ => ?_).answers
    split
    · exact .plain rfl rfl rfl rfl
    · split
      · exact .plain rfl rfl rfl rfl
      · exact same
  | release =>
    refine (withBlock_state same fun r _ => require_state same fun _ => ?_).answers
    have whole := ((s.updLease r (fun e => e.without p)).runArbiter_arbitrates r).moved.rest
    exact .plain (by dsimp only; rw [whole]; rfl) (by dsimp only; rw [whole]; rfl) (by dsimp only; rw [whole]; rfl)
      (by dsimp only; rw [whole]; rfl)
  | configLine => exact (KeepsStore.configLineBody p s params).answers
  | configInput => exact (KeepsStore.configInputBody p s items params).answers
  | configChannel => exact (KeepsStore.configChannelBody p s params).answers
  | writeRecipe => exact (KeepsStore.writeRecipeBody p s params).answers
  | eraseRecipe =>
    exact (withBlock_state same fun i _ => require_state same fun _ => require_state same fun _ =>
      .of_updRecipe s i (fun r => { r with valid := false, body := .empty }) fun _ => Nat.zero_le 8).answers
  | readRecipe => exact (withBlock_state same fun _ _ => .plain rfl rfl rfl rfl).answers
  | stageRecipe =>
    exact (withBlock_state same fun _ _ => require_state same fun _ => require_state same fun _ =>
      require_state same fun _ => require_state same fun _ => .plain rfl rfl rfl rfl).answers
  | cancelStage => exact (KeepsStore.cancelStageBody p s params).answers
  | cancelAction =>
    refine (withBlock_state same fun h _ => ?_).answers
    split
    · exact same
    · exact require_state same fun _ => .endAction _ _ _
  | clearChannel => exact (withBlock_state same fun _ _ => requireChannel_state same (.endActions _ _ _)).answers
  | verdict => exact (KeepsStore.verdictBody p s params).answers
  | readItem =>
    refine (withBlock_state same fun n _ => ?_).answers
    split <;> exact same
  | removeItem =>
    refine (withBlock_state same fun n _ => require_state same fun _ => ?_).answers
    split
    · exact same
    · exact .takeOut _ _ _
  | purgeLine => exact (withBlock_state same fun _ _ => require_state same fun _ => .purge s).answers
  | setHold => exact (withBlock_state same fun _ _ => .changeHold _ _ _ _).answers
  | releaseHold => exact (withBlock_state same fun _ _ => require_state same fun _ => .changeHold _ _ _ _).answers
  | setPosition =>
    exact (withBlock_state same fun v _ => require_state same fun _ => require_state same fun _ =>
      require_state same fun _ => .plain rfl rfl rfl rfl).answers
  | resetDevice => exact (withBlock_state same fun _ _ => require_state same fun _ => .deviceReset s p).answers

theorem KeepsStore.row (name : CommandName) (p : Port) (s : State) (items : s.ItemsSound) :
    s.KeepsStore (effect (name.row p) s) := by
  rw [effect_row]
  obtain same | ⟨code, seq, rest, refused⟩ | ⟨code, seq, params, rest, -, answered⟩ :=
    s.takeCommand_cases p name (!name.takenDetached) (name.body p)
  · rw [same]; exact .refl s
  · rw [refused]; exact (KeepsStore.setPort s p _).trans (.setPort _ p _)
  · rw [answered]
    exact (KeepsStore.setPort s p _).trans
      ((AnswersStore.body name p _ ((KeepsSound.taking s p rest).items items) params).finish p code seq)

/-- Every command and event keeps the Action Store. -/
theorem KeepsStore.effect (c : Instr) (s : State) (items : s.ItemsSound) : s.KeepsStore (effect c s) := by
  cases c using Instr.byRow with
  | row name p => exact .row name p s items
  | unknownCommand p =>
    show s.KeepsStore (s.takeBadFrame p)
    unfold State.takeBadFrame
    split
    · exact .refl s
    · dsimp only
      split
      · exact (KeepsStore.setPort s p _).trans (.setPort _ p _)
      · split
        · exact .refl s
        · exact (KeepsStore.setPort s p _).trans (.setPort _ p _)
  | read p clocked =>
    show s.KeepsStore (s.endRead p clocked)
    unfold State.endRead
    dsimp only
    split
    · exact .setPort s p _
    · split <;> [exact .setPort s p _; exact .refl s]
  | powerOnReset lowNs => exact .resetPulse s lowNs
  | encoderPhaseChange a b => exact .phaseChange s a b
  | encoderFilterExpiry a b => exact (KeepsStore.decode s).trans (.setPhases _ _ _)
  | standstillTimerExpiry =>
    show s.KeepsStore s.standstill
    unfold State.standstill
    split
    · exact .refl s
    · exact (KeepsStore.of_pos s _).trans (.post _ _ _ _)
  | rawTransition k level => exact .pinChange s items k level
  | detectFilterExpiry k => exact .filterExpiry s items k
  | windowTimerExpiry entry =>
    show s.KeepsStore (s.windowExpiry entry)
    unfold State.windowExpiry
    split
    · split <;> [exact .endAction _ _ _; exact .refl s]
    · exact .refl s
  | gapTimerExpiry c => exact .gapExpiry s c
  | keepaliveExpiry p =>
    show s.KeepsStore (s.keepaliveExpires p)
    unfold State.keepaliveExpires
    split <;> [exact .endSession s p .expired; exact .refl s]
  | rstnRise =>
    show s.KeepsStore s.resetRise
    unfold State.resetRise
    split <;> [exact .refl s; exact .plain rfl rfl rfl rfl]
  | csnFall p =>
    show s.KeepsStore (s.csnFalls p)
    unfold State.csnFalls
    dsimp only
    split
    · exact .refl s
    · split <;> exact .setPort s p _
  | replySlotCopy p =>
    show s.KeepsStore (s.copySlot p)
    unfold State.copySlot
    dsimp only
    split <;> [exact .setPort s p _; exact .refl s]
  | commandFrameEnd p bytes partialByte =>
    show s.KeepsStore (s.endFrame p bytes partialByte)
    unfold State.endFrame
    dsimp only
    split
    · split <;> exact .setPort s p _
    · split <;> [exact .setPort s p _; exact .refl s]

end State

/-! ### The statements -/

/-- Settles O57: `State.StoreSound` holds within every event, and with nothing excepted it is the invariant. -/
theorem everyStepKeepsTheActionStoreSound : Obligations.EveryStepKeepsTheActionStoreSound := by
  unfold Obligations.EveryStepKeepsTheActionStoreSound
  intro s t items actions stepped
  obtain rfl | ⟨c, rest, -, rfl⟩ := step_cases stepped
  · exact actions
  · have queued : s.KeepsStore { s with pending := rest } := .plain rfl rfl rfl rfl
    exact (queued.trans (.effect c _ (items.unqueued rest))).store (actions.store items) |>.actionsSound

theorem State.reset_input (k : Fin 8) : State.reset.input k = .reset false := by
  simp [State.reset, State.input, Vector.get_eq_getElem]

/-- Settles O59: the state right after reset is that of a power-on reset with the RSTN rise, and the reset of each block meets
the block's invariant. -/
theorem resetMeetsTheInvariants : Obligations.ResetMeetsTheInvariants := by
  unfold Obligations.ResetMeetsTheInvariants
  have recipe : ∀ i, State.reset.recipe i = State.reset.powerOn.recipe i := fun _ => rfl
  have channel : ∀ c, State.reset.channel c = State.reset.powerOn.channel c := fun _ => rfl
  refine ⟨fun p => ?_, fun r => ?_, fun c => ?_, ?_, ?_, ?_, fun j k entry => ?_, ?_⟩
  · cases p <;> exact .of_empty rfl rfl
  · have empty : State.reset.lease r = ⟨[], []⟩ := by
      rw [State.lease, State.reset, Vector.get_eq_getElem, Vector.getElem_replicate]
    rw [empty]
    exact ⟨by simp, by simp, by simp, by simp, by simp⟩
  · rw [channel, State.powerOn_channel]; exact ⟨rfl, rfl, rfl, rfl⟩
  · refine ⟨Nat.zero_le 64, List.nodup_nil, fun _ m => absurd m List.not_mem_nil, by decide, fun i => ?_⟩
    rw [recipe, State.powerOn_recipe]
    split <;> rfl
  · exact State.StoreSound.actionsSound (.of_reset rfl rfl
      (fun c => by rw [channel, State.powerOn_channel]; exact ⟨rfl, rfl⟩)
      fun i => by rw [recipe, State.powerOn_recipe]; split <;> exact Nat.zero_le 8)
  · exact ⟨Nat.zero_le 2, fun e m => absurd m List.not_mem_nil, rfl, rfl⟩
  · rw [State.reset_input] at entry; cases entry
  · exact ⟨by decide, by decide⟩

end Sys2Proof.Machine
end

section
/-! PROOFS. Parameter blocks (R196, spec 12): each field is read from exactly the bytes that carry it, and each block from
exactly the bytes that lay it out. -/
namespace Sys2Proof.Machine

/-! ### Numbers (R196) -/

theorem toNat_append_eq {n m : Nat} (x : BitVec n) (y : BitVec m) : (x ++ y).toNat = x.toNat * 2 ^ m + y.toNat := by
  rw [BitVec.toNat_append, ← Nat.shiftLeft_add_eq_or_of_lt y.isLt, Nat.shiftLeft_eq]

theorem read16_toNat (b1 b0 : Byte) : (read16 b1 b0).toNat = b1.toNat * 256 + b0.toNat :=
  toNat_append_eq b1 b0

theorem read24_toNat (b2 b1 b0 : Byte) : (read24 b2 b1 b0).toNat = b2.toNat * 65536 + (read16 b1 b0).toNat :=
  toNat_append_eq b2 (b1 ++ b0)

theorem read32_toNat (b3 b2 b1 b0 : Byte) :
    (read32 b3 b2 b1 b0).toNat = b3.toNat * 16777216 + (read24 b2 b1 b0).toNat :=
  toNat_append_eq b3 (b2 ++ (b1 ++ b0))

theorem be16_eq_iff {x : Half} {b1 b0 : Byte} : be16 x = [b1, b0] ↔ x = read16 b1 b0 := by
  have := x.isLt
  have := b1.isLt
  have := b0.isLt
  simp only [be16, List.cons.injEq, and_true, ← BitVec.toNat_inj, read16_toNat, BitVec.extractLsb'_toNat,
    Nat.shiftRight_eq_div_pow]
  omega

theorem be24_eq_iff {x : Offset} {b2 b1 b0 : Byte} : be24 x = [b2, b1, b0] ↔ x = read24 b2 b1 b0 := by
  have := x.isLt
  have := b2.isLt
  have := b1.isLt
  have := b0.isLt
  simp only [be24, List.cons.injEq, and_true, ← BitVec.toNat_inj, read24_toNat, read16_toNat, BitVec.extractLsb'_toNat,
    Nat.shiftRight_eq_div_pow]
  omega

theorem be32_eq_iff {x : BitVec 32} {b3 b2 b1 b0 : Byte} : be32 x = [b3, b2, b1, b0] ↔ x = read32 b3 b2 b1 b0 := by
  have := x.isLt
  have := b3.isLt
  have := b2.isLt
  have := b1.isLt
  have := b0.isLt
  simp only [be32, List.cons.injEq, and_true, ← BitVec.toNat_inj, read32_toNat, read24_toNat, read16_toNat,
    BitVec.extractLsb'_toNat, Nat.shiftRight_eq_div_pow]
  omega

@[simp] theorem be16_read16 (b1 b0 : Byte) : be16 (read16 b1 b0) = [b1, b0] := be16_eq_iff.2 rfl

@[simp] theorem be24_read24 (b2 b1 b0 : Byte) : be24 (read24 b2 b1 b0) = [b2, b1, b0] := be24_eq_iff.2 rfl

@[simp] theorem be32_read32 (b3 b2 b1 b0 : Byte) : be32 (read32 b3 b2 b1 b0) = [b3, b2, b1, b0] := be32_eq_iff.2 rfl

/-- A 16-bit field is two bytes, which read back as the field. -/
theorem exists_be16 (x : Half) : ∃ b1 b0, be16 x = [b1, b0] ∧ read16 b1 b0 = x :=
  ⟨_, _, rfl, (be16_eq_iff.1 rfl).symm⟩

theorem exists_be24 (x : Offset) : ∃ b2 b1 b0, be24 x = [b2, b1, b0] ∧ read24 b2 b1 b0 = x :=
  ⟨_, _, _, rfl, (be24_eq_iff.1 rfl).symm⟩

theorem exists_be32 (x : BitVec 32) : ∃ b3 b2 b1 b0, be32 x = [b3, b2, b1, b0] ∧ read32 b3 b2 b1 b0 = x :=
  ⟨_, _, _, _, rfl, (be32_eq_iff.1 rfl).symm⟩

/-! ### Indexes and codes (spec 12) -/

theorem readIndex_eq_some {n : Nat} (small : n ≤ 256) {b : Byte} {i : Fin n} :
    readIndex n b = some i ↔ b = natByte i.val := by
  have bound := i.isLt
  rw [← BitVec.toNat_inj, natByte_toNat (by omega), readIndex]
  split
  · simp [Fin.ext_iff]
  · simp
    omega

theorem readOneIndex_eq_some {n : Nat} (small : n ≤ 256) {params : List Byte} {i : Fin n} :
    readOneIndex n params = some i ↔ params = [natByte i.val] := by
  match params with
  | [] | _ :: _ :: _ => simp [readOneIndex]
  | [b] => simp [readOneIndex, readIndex_eq_some small]

theorem readBool_eq_some {b : Byte} {x : Bool} : readBool b = some x ↔ b = flagByte x := by
  revert b; cases x <;> decide

theorem readLeaseKind_eq_some {b : Byte} {x : LeaseKind} : readLeaseKind b = some x ↔ b = leaseKindCode x := by
  revert b; cases x <;> decide

theorem readPort_eq_some {b : Byte} {x : Port} : readPort b = some x ↔ b = portCode x := by
  revert b; cases x <;> decide

theorem readReportPort_eq_some {b : Byte} {x : Option Port} : readReportPort b = some x ↔ b = portOrNoneCode x := by
  revert b; cases x with
  | none => decide
  | some p => cases p <;> decide

theorem readRole_eq_some {b : Byte} {x : Role} : readRole b = some x ↔ b = x.code := by
  revert b; cases x <;> decide

theorem readActiveLevel_eq_some {b : Byte} {x : ActiveLevel} : readActiveLevel b = some x ↔ b = x.code := by
  revert b; cases x <;> decide

theorem readOnMiss_eq_some {b : Byte} {x : OnMiss} : readOnMiss b = some x ↔ b = onMissCode x := by
  revert b; cases x <;> decide

theorem readEncoderMode_eq_some {b : Byte} {x : EncoderMode} : readEncoderMode b = some x ↔ b = encoderModeCode x := by
  revert b; cases x <;> decide

theorem readPolarity_eq_some {b : Byte} {x : Polarity} : readPolarity b = some x ↔ b = x.code := by
  revert b; cases x <;> decide

theorem readPolicy_eq_some {b : Byte} {x : Policy} : readPolicy b = some x ↔ b = policyCode x := by
  revert b; cases x <;> decide

theorem readLengthPolicy_eq_some {b : Byte} {x : LengthPolicy} : readLengthPolicy b = some x ↔ b = lengthPolicyCode x := by
  revert b; cases x <;> decide

theorem readVoterDefault_eq_some {b : Byte} {x : VoterDefault} : readVoterDefault b = some x ↔ b = voterDefaultCode x := by
  revert b; cases x <;> decide

theorem readVerdict_eq_some {b : Byte} {x : Verdict} : readVerdict b = some x ↔ b = verdictCode x := by
  revert b; cases x <;> decide

theorem readThreeBits_eq_some {b : Byte} {x : Bool × Bool × Bool} :
    readThreeBits b = some x ↔ b = flagsFrom [x.1, x.2.1, x.2.2] := by
  obtain ⟨i, n, l⟩ := x
  revert b; cases i <;> cases n <;> cases l <;> decide

/-! ### Blocks -/

theorem readPositionBlock_be32 (v : Position) : readPositionBlock (be32 v) = some v :=
  congrArg some (be32_eq_iff.1 rfl).symm

theorem readItemBlock_be16 (n : Half) : readItemBlock (be16 n) = if n = 0 then none else some n := by
  rw [be16, readItemBlock, readItemNumber, read16_extractLsb']

theorem readScopeBlock_eq_some {params : List Byte} {all : Bool} :
    readScopeBlock params = some all ↔ params = [flagByte all] := by
  match params with
  | [] | _ :: _ :: _ => simp [readScopeBlock]
  | [b] => simp [readScopeBlock, readBool_eq_some]

theorem readLeaseBlock_eq_some {params : List Byte} {b : LeaseBlock} :
    readLeaseBlock params = some b ↔ params = [natByte b.resource.val, leaseKindCode b.kind, flagByte b.wait] := by
  unfold readLeaseBlock
  split
  · simp only [Option.bind_eq_bind, Option.bind_eq_some_iff, readIndex_eq_some (show 33 ≤ 256 by decide),
      readLeaseKind_eq_some, readBool_eq_some, Option.some.injEq, List.cons.injEq, and_true]
    constructor
    · rintro ⟨_, rfl, _, rfl, _, rfl, rfl⟩
      exact ⟨rfl, rfl, rfl⟩
    · rintro ⟨rfl, rfl, rfl⟩
      exact ⟨_, rfl, _, rfl, _, rfl, rfl⟩
  · rename_i other
    exact ⟨nofun, fun h => absurd h (other _ _ _)⟩

theorem readChannelBlock_eq_some {params : List Byte} {b : ChannelBlock} :
    readChannelBlock params = some b ↔ b.span ≠ 0 ∧ params =
      [natByte b.channel.val, b.polarity.code] ++ be16 b.minGap ++ [policyCode b.policy] ++ be16 b.span := by
  constructor
  · intro read
    unfold readChannelBlock at read
    split at read
    · simp only [Option.bind_eq_bind, Option.bind_eq_some_iff, readIndex_eq_some (show 16 ≤ 256 by decide),
        readPolarity_eq_some, readPolicy_eq_some] at read
      obtain ⟨_, rfl, _, rfl, _, rfl, read⟩ := read
      split at read
      · cases read
      · rename_i span
        cases read
        exact ⟨span, by simp⟩
    · cases read
  · obtain ⟨c, pol, gap, policy, span⟩ := b
    rintro ⟨nonzero, rfl⟩
    obtain ⟨g1, g0, gap, rfl⟩ := exists_be16 gap
    obtain ⟨s1, s0, span, rfl⟩ := exists_be16 span
    simp only [gap, span, List.cons_append, List.nil_append, readChannelBlock,
      (readIndex_eq_some (show 16 ≤ 256 by decide)).2 rfl, readPolarity_eq_some.2 rfl, readPolicy_eq_some.2 rfl,
      Option.bind_eq_bind, Option.bind_some, if_neg nonzero]

theorem readStageBlock_eq_some {params : List Byte} {b : StageBlock} :
    readStageBlock params = some b ↔ ∃ (atPosition : Bool) (x : Position),
      b.trigger = (if atPosition then .atPosition x else .nextEntry) ∧
        params = natByte b.index.val :: flagByte atPosition :: be32 x := by
  constructor
  · intro read
    unfold readStageBlock at read
    split at read
    · rename_i i t x3 x2 x1 x0
      simp only [Option.bind_eq_bind, Option.bind_eq_some_iff, readIndex_eq_some (show 8 ≤ 256 by decide)] at read
      obtain ⟨_, rfl, read⟩ := read
      split at read
      · rename_i zero
        cases read
        exact ⟨false, read32 x3 x2 x1 x0, rfl, by simp [flagByte, ← BitVec.toNat_inj, zero]⟩
      · rename_i one
        cases read
        exact ⟨true, read32 x3 x2 x1 x0, rfl, by simp [flagByte, ← BitVec.toNat_inj, one]⟩
      · cases read
    · cases read
  · obtain ⟨i, trigger⟩ := b
    rintro ⟨atPosition, x, rfl, rfl⟩
    obtain ⟨x3, x2, x1, x0, x, rfl⟩ := exists_be32 x
    cases atPosition <;>
      simp [x, readStageBlock, (readIndex_eq_some (show 8 ≤ 256 by decide)).2 rfl, flagByte]

theorem readVerdictBlock_eq_some {params : List Byte} {b : VerdictBlock} :
    readVerdictBlock params = some b ↔
      b.item ≠ 0 ∧ params = be16 b.item ++ [verdictCode b.verdict, b.code.setWidth 8] := by
  constructor
  · intro read
    unfold readVerdictBlock at read
    split at read
    · rename_i i1 i0 v c
      simp only [Option.bind_eq_bind, Option.bind_eq_some_iff, readVerdict_eq_some, readItemNumber] at read
      obtain ⟨_, item, _, rfl, read⟩ := read
      split at item <;> cases item
      rename_i nonzero
      split at read <;> cases read
      rename_i small
      refine ⟨nonzero, ?_⟩
      simp only [be16_read16, List.cons_append, List.nil_append, List.cons.injEq, true_and, and_true]
      exact BitVec.eq_of_toNat_eq (by simp only [BitVec.toNat_setWidth]; omega)
    · cases read
  · obtain ⟨n, v, code⟩ := b
    rintro ⟨nonzero, rfl⟩
    obtain ⟨n1, n0, n, rfl⟩ := exists_be16 n
    have small : (code.setWidth 8 : Byte).toNat ≤ 63 := by
      have := code.isLt
      simp only [BitVec.toNat_setWidth]
      omega
    have back : (code.setWidth 8 : Byte).setWidth 6 = code :=
      BitVec.eq_of_toNat_eq (by simp only [BitVec.toNat_setWidth]; omega)
    simp only [n, List.cons_append, List.nil_append, readVerdictBlock, readItemNumber, if_neg nonzero,
      readVerdict_eq_some.2 rfl, Option.bind_eq_bind, Option.bind_some, if_pos small, back]

end Sys2Proof.Machine
end

section
/-! PROOFS. Frames as they are read (R178, R180) and the transactions of a port (R178, R181, R184). -/
namespace Sys2Proof.Machine

/-! ### Frames (R178, R180) -/

/-- A frame that passes the checks of R180 ends with the CRC of the bytes before it, and the length byte counts the
parameters. -/
theorem eq_commandFrame {code seq n : Byte} {rest : List Byte} (length : rest.length = n.toNat + 1)
    (crc : crc8 (code :: seq :: n :: rest).dropLast = (code :: seq :: n :: rest).getLastD 0) :
    code :: seq :: n :: rest = commandFrame code seq rest.dropLast := by
  obtain rfl | ⟨params, last, rfl⟩ := rest.eq_nil_or_concat'
  · cases length
  have counted : natByte params.length = n := by
    rw [List.length_append, List.length_singleton, Nat.add_right_cancel_iff] at length
    rw [length, natByte, BitVec.ofNat_toNat, BitVec.setWidth_eq]
  have crc : crc8 (code :: seq :: n :: params) = last := by
    simpa only [← List.cons_append, List.dropLast_concat, List.getLastD_concat] using crc
  rw [List.dropLast_concat, commandFrame_eq_cons, counted, crc]

theorem judgeFrame_eq_command_iff {f : Frame} {code seq : Byte} {params : List Byte} :
    judgeFrame f = .command code seq params ↔ f = ⟨commandFrame code seq params, false⟩ ∧ params.length ≤ 128 := by
  refine ⟨fun judged => ?_, fun ⟨laidOut, short⟩ => laidOut ▸ judgeFrame_commandFrame code seq short⟩
  obtain ⟨bytes, inByte⟩ := f
  cases inByte with
  | true => cases judged
  | false =>
    match bytes with
    | [] | [_] | [_, _] => cases judged
    | code' :: seq' :: n :: rest =>
      rw [judgeFrame_cons] at judged
      split at judged
      · cases judged
      split at judged
      · cases judged
      rename_i length crc
      rw [not_or, not_not] at length
      rw [not_not] at crc
      obtain ⟨rfl, rfl, rfl⟩ := Judged.command.inj judged
      rw [eq_commandFrame length.2 crc]
      refine ⟨rfl, ?_⟩
      rw [List.length_dropLast]
      omega

/-- Settles O4: the checks of R180 leave exactly the frames that end with their CRC. -/
theorem framesAreReadExactlyAsLaidOut : Obligations.FramesAreReadExactlyAsLaidOut := by
  unfold Obligations.FramesAreReadExactlyAsLaidOut
  exact fun _ _ _ _ => judgeFrame_eq_command_iff

/-! ### Transactions (R178, R184) -/

theorem exec_csnFall (s : State) (p : Port) : exec (.csnFall p) s = .next (s.csnFalls p) := rfl

theorem exec_replySlotCopy (s : State) (p : Port) : exec (.replySlotCopy p) s = .next (s.copySlot p) := rfl

theorem exec_commandFrameEnd (s : State) (p : Port) (bytes : List Byte) (partialByte : Bool) :
    exec (.commandFrameEnd p bytes partialByte) s = .next (s.endFrame p bytes partialByte) := rfl

theorem exec_read (s : State) (p : Port) (clocked : Nat) : exec (.read p clocked) s = .next (s.endRead p clocked) := rfl

theorem misoByte_idle {s : State} {p : Port} (idle : (s.port p).transaction = .idle) (k : Nat) : s.misoByte p k = 0 := by
  rw [State.misoByte, ← State.port, idle]

theorem misoByte_receiving {s : State} {p : Port} {status : Byte} (receives : (s.port p).transaction = .receiving status)
    (k : Nat) : s.misoByte p k = if k = 0 then status else 0 := by
  rw [State.misoByte, ← State.port, receives]

theorem misoByte_reading {s : State} {p : Port} {status : Byte} {copy : List Byte}
    (reads : (s.port p).transaction = .reading status copy) (k : Nat) :
    s.misoByte p k = if k = 0 then status else copy.getD (k - 1) 0 := by
  rw [State.misoByte, ← State.port, reads]

/-- Writing back what a port holds changes nothing. -/
theorem setPort_port (s : State) (p : Port) : s.setPort p (s.port p) = s := by
  cases p <;> rfl

theorem csnRises_of_high {ps : PortState} (idle : ps.transaction = .idle) : ps.csnRises = { ps with csnLow := false } := by
  rw [PortState.csnRises, ← idle]

/-- The end of a transaction that the port ignores raises CSN only. -/
theorem raise_idle {s : State} {p : Port} (idle : (s.port p).transaction = .idle) :
    (if (s.port p).csnLow then s.setPort p (s.port p).csnRises else s) =
      s.setPort p { s.port p with csnLow := false } := by
  rw [csnRises_of_high idle]
  split
  · rfl
  · rename_i high
    have same : { s.port p with csnLow := false } = s.port p := by rw [← Bool.eq_false_of_not_eq_true high]
    rw [same, setPort_port]

theorem endFrame_idle {s : State} {p : Port} (idle : (s.port p).transaction = .idle) (bytes : List Byte)
    (partialByte : Bool) : s.endFrame p bytes partialByte = s.setPort p { s.port p with csnLow := false } := by
  rw [← raise_idle idle]
  simp only [State.endFrame, idle]

theorem endRead_idle {s : State} {p : Port} (idle : (s.port p).transaction = .idle) (clocked : Nat) :
    s.endRead p clocked = s.setPort p { s.port p with csnLow := false } := by
  rw [← raise_idle idle]
  simp only [State.endRead, idle]

theorem csnFalls_of_low {s : State} {p : Port} (low : s.rstn = false) :
    s.csnFalls p = s.setPort p { s.port p with csnLow := true } := by
  unfold State.csnFalls
  dsimp only
  split
  · rename_i already
    have same : { s.port p with csnLow := true } = s.port p := by rw [← already]
    rw [same, setPort_port]
  · simp [low]

/-- Settles O8: each end and beginning of a transaction is one branch of its operation, by what the port takes part in. -/
theorem transactionsBeginAndFramesWaitInTurn : Obligations.TransactionsBeginAndFramesWaitInTurn := by
  unfold Obligations.TransactionsBeginAndFramesWaitInTurn
  dsimp only
  refine ⟨fun s p high csn => ⟨?_, ?_, fun k => ?_⟩, fun s p low => ?_, fun s p idle => ⟨misoByte_idle idle, ?_, ?_, ?_⟩,
    fun s p status partialByte receives => ⟨fun b bytes command => ?_, ?_⟩⟩
  · simp [exec_csnFall, State.csnFalls, high, csn, PortState.markCopied]
  · exact misoByte_receiving (status := statusByte (s.port p) (s.hold != 0)) (by rw [State.port_setPort_self]) 0
  · exact misoByte_receiving (status := statusByte (s.port p) (s.hold != 0)) (by rw [State.port_setPort_self]) (k + 1)
  · rw [exec_csnFall, csnFalls_of_low low]
  · simp only [exec_replySlotCopy, State.copySlot, idle]
  · intro bytes partialByte
    rw [exec_commandFrameEnd, endFrame_idle idle]
  · intro clocked
    rw [exec_read, endRead_idle idle]
  · simp only [exec_commandFrameEnd, State.endFrame, receives, commandTransaction, bne_iff_ne.2 command, if_true,
      PortState.csnRises]
  · simp [exec_commandFrameEnd, State.endFrame, receives, commandTransaction, PortState.csnRises]

/-- The reply in the slot after a READ that clocked the copy through its CRC or not (R184). -/
theorem endRead_reading {s : State} {p : Port} {status : Byte} {copy : List Byte}
    (reads : (s.port p).transaction = .reading status copy) (clocked : Nat) :
    s.endRead p clocked = s.setPort p { s.port p with
      csnLow := false, transaction := .idle
      slot := (s.port p).slot.map (fun r =>
        { r with read := r.read || (r.copied && copy.length ≤ clocked), copied := false }) } := by
  simp only [State.endRead, reads]
  congr 1
  generalize s.port p = ps
  obtain ⟨_, _, _, _, slot, _, _, _⟩ := ps
  cases slot with
  | none =>
    simp [PortState.holdsCopied, PortState.csnRises, PortState.markCopied]
  | some r =>
    by_cases done : copy.length ≤ clocked <;> cases copied : r.copied <;>
      simp [PortState.holdsCopied, PortState.csnRises, PortState.markCopied, PortState.markRead, done, copied]

/-- Settles O9: the copy is the slot's frame as it stands when the first byte ends, and the end of the READ compares the
bytes clocked with its length. -/
theorem readCopiesTheSlotAndMarksTheReply : Obligations.ReadCopiesTheSlotAndMarksTheReply := by
  unfold Obligations.ReadCopiesTheSlotAndMarksTheReply
  dsimp only
  refine ⟨fun s p status receives => ⟨?_, ?_, fun k => ?_⟩, fun s p status copy clocked reads => ?_⟩
  · simp only [exec_replySlotCopy, State.copySlot, receives]
    rfl
  · exact misoByte_reading (by rw [State.port_setPort_self]) 0
  · exact misoByte_reading (by rw [State.port_setPort_self]) (k + 1)
  · rw [exec_read, endRead_reading reads]

end Sys2Proof.Machine
end

section
/-! PROOFS. The common checks of R181: the session (check 3), the length of the block (check 4) and the lease of LINE
(R159, R171). -/
namespace Sys2Proof.Machine

/-! ### The steps of a command's own rule -/

theorem withBlock_of_none {α : Type} {block : Option α} (unread : block = none) (s : State) (k : α → Answer) :
    withBlock s block k = refuse s .badParameter := by
  rw [unread, withBlock]

theorem withBlock_of_some {α : Type} {block : Option α} {b : α} (read : block = some b) (s : State) (k : α → Answer) :
    withBlock s block k = k b := by
  rw [read, withBlock]

/-- A block that carries nothing of what its reader reads is refused by check 4 of R181. -/
theorem withBlock_of_unread {α : Type} {block : Option α} (unread : ∀ b, block ≠ some b) (s : State) (k : α → Answer) :
    withBlock s block k = refuse s .badParameter :=
  withBlock_of_none (Option.eq_none_iff_forall_ne_some.2 unread) s k

theorem require_of_pass {ok : Bool} (pass : ok = true) (s : State) (r : Result) (k : Answer) : require s ok r k = k :=
  if_pos pass

theorem require_of_fail {ok : Bool} (fail : ¬ok = true) (s : State) (r : Result) (k : Answer) :
    require s ok r k = refuse s r :=
  if_neg fail

/-- What a command of an attached port does (R181). -/
theorem exec_attached {name : CommandName} {s : State} {p : Port} {seq : Byte} {params : List Byte} {rest : List Frame}
    (waits : s.FrameWaits p name seq params rest) (attached : (s.port p).session.attached = true) {r : Answer}
    (answer : name.body p (s.taking p rest) params = r) :
    exec (name.row p) s = .next (r.finish p (commandCode name) seq) := by
  rw [exec_row_eq_finish waits fun _ => attached, answer]

/-- A command of an attached port that its own rule refuses. -/
theorem exec_refused {name : CommandName} {s : State} {p : Port} {seq : Byte} {params : List Byte} {rest : List Frame}
    (waits : s.FrameWaits p name seq params rest) (attached : (s.port p).session.attached = true) {r : Result}
    (answer : name.body p (s.taking p rest) params = refuse (s.taking p rest) r) :
    exec (name.row p) s = .next ((s.taking p rest).placeReply p (commandCode name) seq r []) := by
  rw [exec_attached waits attached answer, finish_refuse]

/-! ### The session (R159) -/

theorem takeCommand_detached {s : State} {p : Port} {name : CommandName} {seq : Byte} {params : List Byte}
    {rest : List Frame} (waits : s.FrameWaits p name seq params rest) (detached : (s.port p).session.attached = false)
    (body : State → List Byte → Answer) :
    s.takeCommand p name true body =
      (s.setPort p { s.port p with waiting := rest }).placeReply p (commandCode name) seq .notAttached [] := by
  obtain ⟨short, front⟩ := waits
  simp [State.takeCommand, front, judgeFrame_commandFrame _ _ short, detached, State.updPort]

/-! ### The length of the block (R181, spec 12) -/

theorem readNothing_length {params : List Byte} (bad : params.length ≠ 0) : readNothing params = none := by
  match params with
  | [] => exact absurd rfl bad
  | _ :: _ => rfl

theorem readAttachBlock_length {params : List Byte} (bad : params.length ≠ 5) : readAttachBlock params = none := by
  unfold readAttachBlock
  split
  · exact absurd rfl bad
  · rfl

theorem readLeaseBlock_length {params : List Byte} (bad : params.length ≠ 3) : readLeaseBlock params = none := by
  unfold readLeaseBlock
  split
  · exact absurd rfl bad
  · rfl

theorem readOneIndex_length {n : Nat} {params : List Byte} (bad : params.length ≠ 1) : readOneIndex n params = none := by
  unfold readOneIndex
  split
  · exact absurd rfl bad
  · rfl

theorem readLineBlock_length {params : List Byte} (bad : params.length ≠ 23) : readLineBlock params = none := by
  unfold readLineBlock
  split
  · exact absurd rfl bad
  · rfl

theorem readInputBlock_length {params : List Byte} (bad : params.length ≠ 10) : readInputBlock params = none := by
  unfold readInputBlock
  split
  · exact absurd rfl bad
  · rfl

theorem readChannelBlock_length {params : List Byte} (bad : params.length ≠ 7) : readChannelBlock params = none := by
  unfold readChannelBlock
  split
  · exact absurd rfl bad
  · rfl

theorem readStageBlock_length {params : List Byte} (bad : params.length ≠ 6) : readStageBlock params = none := by
  unfold readStageBlock
  split
  · exact absurd rfl bad
  · rfl

theorem readScopeBlock_length {params : List Byte} (bad : params.length ≠ 1) : readScopeBlock params = none := by
  unfold readScopeBlock
  split
  · exact absurd rfl bad
  · rfl

theorem readPostBlock_length {params : List Byte} (bad : params.length ≠ 14) : readPostBlock params = none := by
  unfold readPostBlock
  split
  · exact absurd rfl bad
  · rfl

theorem readVerdictBlock_length {params : List Byte} (bad : params.length ≠ 4) : readVerdictBlock params = none := by
  unfold readVerdictBlock
  split
  · exact absurd rfl bad
  · rfl

theorem readItemBlock_length {params : List Byte} (bad : params.length ≠ 2) : readItemBlock params = none := by
  unfold readItemBlock
  split
  · exact absurd rfl bad
  · rfl

theorem readPositionBlock_length {params : List Byte} (bad : params.length ≠ 4) : readPositionBlock params = none := by
  unfold readPositionBlock
  split
  · exact absurd rfl bad
  · rfl

theorem length_of_readTemplate {ps : List Byte} {t : Template} (read : readTemplate ps = some t) : ps.length = 12 := by
  unfold readTemplate at read
  split at read
  · rfl
  · cases read

theorem length_of_readTemplates {n : Nat} {ps : List Byte} {ts : List Template} (read : readTemplates n ps = some ts) :
    ps.length = 12 * n := by
  induction n generalizing ps ts with
  | zero =>
    cases ps with
    | nil => rfl
    | cons b ps => cases read
  | succ n ih =>
    simp only [readTemplates, Option.bind_eq_bind, Option.bind_eq_some_iff] at read
    obtain ⟨t, first, rest, more, -⟩ := read
    have first := length_of_readTemplate first
    have more := ih more
    simp only [List.length_take, List.length_drop] at first more
    omega

theorem length_of_readRecipeBlock {params : List Byte} {b : RecipeBlock} (read : readRecipeBlock params = some b) :
    22 ≤ params.length ∧ (params.length - 22) % 12 = 0 := by
  unfold readRecipeBlock at read
  split at read
  · simp only [Option.bind_eq_bind, Option.bind_eq_some_iff] at read
    obtain ⟨_, -, _, -, _, -, _, -, _, -, _, -, _, -, _, templates, -⟩ := read
    have templates := length_of_readTemplates templates
    simp only [List.length_cons]
    omega
  · cases read

theorem readRecipeBlock_length {params : List Byte} (bad : ¬(22 ≤ params.length ∧ (params.length - 22) % 12 = 0)) :
    readRecipeBlock params = none :=
  Option.eq_none_iff_forall_ne_some.2 fun _ read => bad (length_of_readRecipeBlock read)

/-- Check 4 of R181 refuses a block of a length that the command does not take; ALREADY_ATTACHED comes before it. -/
theorem CommandName.body_of_length {name : CommandName} {params : List Byte} {p : Port} {s : State}
    (bad : name.lengthAllowed params.length = false)
    (detached : name = .attach → (s.port p).session.attached = false) :
    name.body p s params = refuse s .badParameter := by
  cases name with
  | attach =>
    rw [body, attachBody, require_of_pass (by simp [detached rfl])]
    exact withBlock_of_none (readAttachBlock_length (of_decide_eq_false bad)) s _
  | detach => exact withBlock_of_none (readNothing_length (of_decide_eq_false bad)) s _
  | portReset => exact withBlock_of_none (readNothing_length (of_decide_eq_false bad)) s _
  | status => exact withBlock_of_none (readNothing_length (of_decide_eq_false bad)) s _
  | fetch => exact withBlock_of_none (readNothing_length (of_decide_eq_false bad)) s _
  | ack => exact withBlock_of_none (readSerialBlock_of_length_ne (of_decide_eq_false bad)) s _
  | lease => exact withBlock_of_none (readLeaseBlock_length (of_decide_eq_false bad)) s _
  | release => exact withBlock_of_none (readOneIndex_length (of_decide_eq_false bad)) s _
  | configLine => exact withBlock_of_none (readLineBlock_length (of_decide_eq_false bad)) s _
  | configInput => exact withBlock_of_none (readInputBlock_length (of_decide_eq_false bad)) s _
  | configChannel => exact withBlock_of_none (readChannelBlock_length (of_decide_eq_false bad)) s _
  | writeRecipe =>
    exact withBlock_of_none (readRecipeBlock_length fun allowed => by simp [lengthAllowed, allowed] at bad) s _
  | eraseRecipe =>
    exact withBlock_of_none (by rw [readOneIndex_length (of_decide_eq_false bad), Option.filter_none]) s _
  | readRecipe => exact withBlock_of_none (readOneIndex_length (of_decide_eq_false bad)) s _
  | stageRecipe => exact withBlock_of_none (readStageBlock_length (of_decide_eq_false bad)) s _
  | cancelStage => exact withBlock_of_none (readScopeBlock_length (of_decide_eq_false bad)) s _
  | postAction => exact withBlock_of_none (readPostBlock_length (of_decide_eq_false bad)) s _
  | cancelAction => exact withBlock_of_none (readHandleBlock_of_length_ne (of_decide_eq_false bad)) s _
  | clearChannel => exact withBlock_of_none (readOneIndex_length (of_decide_eq_false bad)) s _
  | readChannel => exact withBlock_of_none (readOneIndex_length (of_decide_eq_false bad)) s _
  | verdict => exact withBlock_of_none (readVerdictBlock_length (of_decide_eq_false bad)) s _
  | readItem => exact withBlock_of_none (readItemBlock_length (of_decide_eq_false bad)) s _
  | listItems => exact withBlock_of_none (readOneIndex_length (of_decide_eq_false bad)) s _
  | removeItem => exact withBlock_of_none (readItemBlock_length (of_decide_eq_false bad)) s _
  | purgeLine => exact withBlock_of_none (readNothing_length (of_decide_eq_false bad)) s _
  | setHold => exact withBlock_of_none (readNothing_length (of_decide_eq_false bad)) s _
  | releaseHold => exact withBlock_of_none (readHoldBlock_of_length_ne (of_decide_eq_false bad)) s _
  | readPosition => exact withBlock_of_none (readNothing_length (of_decide_eq_false bad)) s _
  | setPosition => exact withBlock_of_none (readPositionBlock_length (of_decide_eq_false bad)) s _
  | resetDevice => exact withBlock_of_none (readNothing_length (of_decide_eq_false bad)) s _

/-! ### The lease of LINE (R171) -/

/-- A block that its command reads, from a caller without the exclusive lease of LINE. -/
theorem refused_without_line {α : Type} {block : Option α} {s : State} {p : Port} (read : block ≠ none)
    (unleased : (p, LeaseKind.exclusive) ∉ (s.lease resLine).holders) (k : α → Answer) :
    withBlock s block (fun b => require s (s.holdsExclusive p resLine) .notLeased (k b)) = refuse s .notLeased := by
  obtain ⟨b, read⟩ := Option.ne_none_iff_exists'.1 read
  rw [withBlock_of_some read, require_of_fail (mt (s.holdsExclusive_iff p resLine).1 unleased)]

/-- Settles O10: the session is asked before the body, the reader of each block before its lease, and the lease of LINE
before every other check of the commands that need it. -/
theorem commonChecksRefuseInTheirOrder : Obligations.CommonChecksRefuseInTheirOrder := by
  unfold Obligations.CommonChecksRefuseInTheirOrder
  refine ⟨?_, ?_, ?_⟩
  · intro s p name seq params rest waits detached sessions
    rw [exec_row, sessions, Bool.not_false, takeCommand_detached waits detached]
  · intro s p name seq params rest waits bad attach session
    have detached : name = .attach → ((s.taking p rest).port p).session.attached = false := fun h => by
      rw [State.taking_port_self, Session.heard_attached]
      exact attach h
    rw [exec_row_eq_finish waits session, CommandName.body_of_length bad detached, finish_refuse]
  · intro s p seq params rest name waits attached unleased asked
    have unleased : (p, LeaseKind.exclusive) ∉ ((s.taking p rest).lease resLine).holders := unleased
    refine exec_refused waits attached ?_
    rcases asked with ⟨rfl, read⟩ | ⟨rfl, read⟩ | ⟨rfl, read⟩ | ⟨rfl, length⟩ | ⟨rfl, rfl⟩ | ⟨rfl, rfl⟩
    · exact refused_without_line read unleased _
    · exact refused_without_line read unleased _
    · exact refused_without_line read unleased _
    · refine refused_without_line (block := readPositionBlock params) ?_ unleased _
      match params, length with
      | [_, _, _, _], _ => exact nofun
    · exact refused_without_line (block := readNothing []) nofun unleased
        fun _ => ⟨(s.taking p rest).purge, .ok, [natByte s.items.live.length], []⟩
    · exact refused_without_line (block := readNothing []) nofun unleased
        fun _ => ⟨(s.taking p rest).deviceReset p, .ok, [], []⟩

end Sys2Proof.Machine
end

section
/-! PROOFS. The commands of the session, the notice queue and the Lease Table: ATTACH, STATUS, FETCH, LEASE, RELEASE (R160,
R167 to R169, R188, R192). -/
namespace Sys2Proof.Machine

/-! ### What taking a frame leaves (R164, R181) -/

@[simp] theorem Session.heard_lastEnd (x : Session) : x.heard.lastEnd = x.lastEnd := by
  unfold Session.heard; split <;> rfl

@[simp] theorem taking_attached (s : State) (p : Port) (rest : List Frame) :
    ((s.taking p rest).port p).session.attached = (s.port p).session.attached := by
  rw [State.taking_port_self, Session.heard_attached]

@[simp] theorem taking_lastEnd (s : State) (p : Port) (rest : List Frame) :
    ((s.taking p rest).port p).session.lastEnd = (s.port p).session.lastEnd := by
  rw [State.taking_port_self, Session.heard_lastEnd]

@[simp] theorem taking_line (s : State) (p : Port) (rest : List Frame) : (s.taking p rest).line = s.line := rfl

@[simp] theorem taking_items (s : State) (p : Port) (rest : List Frame) : (s.taking p rest).items = s.items := rfl

@[simp] theorem taking_actions (s : State) (p : Port) (rest : List Frame) : (s.taking p rest).actions = s.actions := rfl

@[simp] theorem taking_recipes (s : State) (p : Port) (rest : List Frame) : (s.taking p rest).recipes = s.recipes := rfl

/-! ### ATTACH (R160) -/

theorem readOrphan_eq (b : Byte) :
    readOrphan b = if b.toNat ≤ 1 then some (if b = 0 then .keep else .cancel) else none := by
  revert b; decide

theorem readBool_eq (b : Byte) : readBool b = if b.toNat ≤ 1 then some (decide (b = 1)) else none := by
  revert b; decide

theorem readThreeBits_eq (b : Byte) :
    readThreeBits b = if b.toNat ≤ 7 then some (b.getLsbD 0, b.getLsbD 1, b.getLsbD 2) else none :=
  if_congr Nat.lt_succ_iff rfl rfl

/-- The ranges of ATTACH (R160), and the options that its bytes carry. -/
theorem readAttachBlock_eq (k1 k0 o m a : Byte) :
    readAttachBlock [k1, k0, o, m, a] =
      if (read16 k1 k0).toNat ≤ 6000 ∧ o.toNat ≤ 1 ∧ m.toNat ≤ 7 ∧ a.toNat ≤ 1 then
        some ⟨read16 k1 k0, if o = 0 then .keep else .cancel, ⟨m.getLsbD 0, m.getLsbD 1, m.getLsbD 2⟩, a = 1⟩
      else none := by
  rw [readAttachBlock, readOrphan_eq, readThreeBits_eq, readBool_eq]
  by_cases orphan : o.toNat ≤ 1 <;> by_cases classes : m.toNat ≤ 7 <;> by_cases attention : a.toNat ≤ 1 <;>
    simp [orphan, classes, attention]

/-- Settles O11: the session is asked before the block is read, and the block's ranges decide the rest. -/
theorem attachOpensASession : Obligations.AttachOpensASession := by
  unfold Obligations.AttachOpensASession
  intro s p seq params rest waits
  have answer : exec (.attach p) s = .next ((attachBody p (s.taking p rest) params).finish p 0x01 seq) :=
    exec_row_eq_finish waits nofun
  dsimp only
  rw [answer]
  refine ⟨fun attached => ?_, fun detached length => ?_, ?_⟩
  · rw [attachBody, require_of_fail (by simp [attached]), finish_refuse]
  · rw [attachBody, require_of_pass (by simp [detached]), withBlock_of_none (readAttachBlock_length length), finish_refuse]
  · rintro k1 k0 o m a detached rfl
    rw [attachBody, require_of_pass (by simp [detached]), readAttachBlock_eq]
    by_cases within : (read16 k1 k0).toNat ≤ 6000 ∧ o.toNat ≤ 1 ∧ m.toNat ≤ 7 ∧ a.toNat ≤ 1
    · refine congrArg Host.Outcome.next (Eq.trans ?_ (if_pos within).symm)
      rw [if_pos within, withBlock, Answer.finish_of_no_skipped]
      simp only [PortState.attach, taking_lastEnd, State.taking_nextSerial]
      rfl
    · rw [if_neg within, withBlock, finish_refuse]
      exact congrArg Host.Outcome.next (if_neg within).symm

/-! ### STATUS (R192) -/

theorem stageEntryBytes_eq (e : StageEntry) :
    stageEntryBytes e = natByte e.recipe.val ::
      (match e.trigger with
       | .nextEntry => [0, 0, 0, 0, 0]
       | .atPosition x => 1 :: be32 x) := by
  obtain ⟨i, trigger⟩ := e
  have zero : be32 0 = [0, 0, 0, 0] := by decide
  cases trigger with
  | nextEntry => simp only [stageEntryBytes, triggerCode, triggerPoint, zero]
  | atPosition x => rfl

/-- Settles O13: the payload is read from the state that taking the frame leaves, which differs in the timer and the waiting
frames of the port alone. -/
theorem statusReportsTheState : Obligations.StatusReportsTheState := by
  unfold Obligations.StatusReportsTheState
  intro s p seq rest waits
  have answer : exec (.status p) s = .next ((statusBody p (s.taking p rest) []).finish p 0x04 seq) :=
    exec_row_eq_finish waits nofun
  dsimp only
  rw [answer, statusBody, withBlock_readNothing, if_pos rfl, Answer.finish_of_no_skipped, State.statusPayload]
  have device : be16 0x3160 = [0x31, 0x60] := by decide
  simp only [taking_attached, taking_lastEnd, State.taking_nextSerial, State.taking_queue, State.taking_lost,
    State.taking_pos, State.taking_hold, taking_line, taking_items, taking_actions, taking_recipes, motionCode_eq_ite,
    flagByte, natHalf, device, funext stageEntryBytes_eq, List.append_assoc, List.cons_append, List.nil_append] <;>
    rfl

/-! ### FETCH (R188, R199) -/

theorem length_slotBytes (x : Slot) : (slotBytes x).length = 2 := by
  rcases x with _ | (_ | ⟨v, code⟩) | ⟨v, code, source⟩ <;> rfl

/-- The data of each kind fit its 8 bytes. -/
theorem length_noticeFields_le (b : NoticeBody) : (noticeFields b).length ≤ 8 := by
  cases b <;> simp [noticeFields, slotsBytes, exitSlotsBytes, length_slotBytes, be16, be24, be32, int24]

theorem length_record (n : Notice) : n.record.length = 16 := by
  have fits := length_noticeFields_le n.body
  rw [← noticeBytes_record, noticeBytes, noticeData]
  simp only [List.length_cons, List.length_append, List.length_replicate, be16, be32, List.length_nil]
  omega

/-- Settles O14: the records are laid out byte by byte (`noticeBytes_record`) and read from an unchanged queue. -/
theorem fetchCopiesTheOldestNotices : Obligations.FetchCopiesTheOldestNotices := by
  unfold Obligations.FetchCopiesTheOldestNotices
  intro s p seq params rest waits attached
  refine ⟨?_, fun n _ => length_record n⟩
  have answer : exec (.fetch p) s = .next ((fetchBody p (s.taking p rest) params).finish p 0x05 seq) :=
    exec_attached waits attached rfl
  rw [answer, fetchBody, withBlock_readNothing]
  split
  · have records : noticeBytes = Notice.record := funext noticeBytes_record
    simp only [Answer.finish_of_no_skipped, State.taking_queue, State.taking_lost, records, List.length_take,
      Nat.min_comm 7, List.append_assoc, List.cons_append, List.nil_append]
  · rw [finish_refuse]

/-! ### LEASE (R167) -/

theorem compatible_iff (e : LeaseEntry) (k : LeaseKind) :
    e.compatible k = true ↔ k = .exclusive ∧ e.holders = [] ∨ k = .shared ∧ ∀ h ∈ e.holders, h.2 ≠ .exclusive := by
  cases k with
  | exclusive => simp [LeaseEntry.compatible]
  | shared =>
    have other : ∀ x : LeaseKind, x = .shared ↔ x ≠ .exclusive := by intro x; cases x <;> simp
    simp [LeaseEntry.compatible, other]

theorem grantable_iff (e : LeaseEntry) (k : LeaseKind) :
    e.grantable k = true ↔ e.waiters = [] ∧
      (k = .exclusive ∧ e.holders = [] ∨ k = .shared ∧ ∀ h ∈ e.holders, h.2 ≠ .exclusive) := by
  rw [LeaseEntry.grantable, Bool.and_eq_true, compatible_iff, List.isEmpty_iff]

theorem heldKind_eq (e : LeaseEntry) (asked : LeaseKind) : e.heldKind asked = e.holders.head?.elim asked Prod.snd := by
  unfold LeaseEntry.heldKind
  cases e.holders <;> rfl

theorem leaseBody_of_named {p : Port} {s : State} {r : Fin 33} (kind : LeaseKind) (wait : Bool)
    (named : (s.lease r).names p = true) :
    leaseBody p s [natByte r.val, leaseKindCode kind, flagByte wait] = refuse s .already := by
  rw [leaseBody, withBlock_of_some (b := ⟨r, kind, wait⟩) (readLeaseBlock_eq_some.2 rfl)]
  exact require_of_fail (by simp [named]) ..

theorem leaseBody_of_grantable {p : Port} {s : State} {r : Fin 33} {kind : LeaseKind} (wait : Bool)
    (unnamed : (s.lease r).names p = false) (grant : (s.lease r).grantable kind = true) :
    leaseBody p s [natByte r.val, leaseKindCode kind, flagByte wait] =
      ⟨s.updLease r (fun e => { e with holders := e.holders ++ [(p, kind)] }), .ok,
        leasePayload { s.lease r with holders := (s.lease r).holders ++ [(p, kind)] } ⟨r, kind, wait⟩ [], []⟩ := by
  rw [leaseBody, withBlock_of_some (b := ⟨r, kind, wait⟩) (readLeaseBlock_eq_some.2 rfl)]
  refine (require_of_pass (by simp [unnamed]) ..).trans ((if_pos grant).trans ?_)
  simp only [State.lease_updLease, if_true]

theorem leaseBody_of_not_grantable {p : Port} {s : State} {r : Fin 33} {kind : LeaseKind} (wait : Bool)
    (unnamed : (s.lease r).names p = false) (denied : ¬(s.lease r).grantable kind = true) :
    leaseBody p s [natByte r.val, leaseKindCode kind, flagByte wait] =
      if wait then
        ⟨s.updLease r (fun e => { e with waiters := e.waiters ++ [(p, kind)] }), .waiting,
          leasePayload (s.lease r) ⟨r, kind, wait⟩ [natByte ((s.lease r).waiters.length + 1)], []⟩
      else ⟨s, .held, leasePayload (s.lease r) ⟨r, kind, wait⟩ [], []⟩ := by
  rw [leaseBody, withBlock_of_some (b := ⟨r, kind, wait⟩) (readLeaseBlock_eq_some.2 rfl)]
  exact (require_of_pass (by simp [unnamed]) ..).trans (if_neg denied)

/-- Settles O16: the block carries a resource, a kind and a wait mode, and the entry as it stands decides the answer. -/
theorem leaseGrantsQueuesOrHolds : Obligations.LeaseGrantsQueuesOrHolds := by
  unfold Obligations.LeaseGrantsQueuesOrHolds
  intro s p seq params rest waits attached
  have answer : exec (.lease p) s = .next ((leaseBody p (s.taking p rest) params).finish p 0x10 seq) :=
    exec_attached waits attached rfl
  dsimp only
  rw [answer]
  refine ⟨fun other => ?_, ?_⟩
  · rw [leaseBody, withBlock_of_unread fun b read => other _ _ _ (readLeaseBlock_eq_some.1 read), finish_refuse]
  rintro r kind wait rfl
  have unnamed : (∀ k, (p, k) ∉ (s.lease r).holders ++ (s.lease r).waiters) →
      ((s.taking p rest).lease r).names p = false := fun absent =>
    Bool.eq_false_iff.2 fun named => by obtain ⟨k, m⟩ := (LeaseEntry.names_iff _ _).1 named; exact absent k m
  refine ⟨fun stands => ?_, fun absent grant => ?_, fun absent denied asks => ?_, fun absent denied asks => ?_⟩
  · rw [leaseBody_of_named (s := s.taking p rest) kind wait ((LeaseEntry.names_iff _ _).2 stands), finish_refuse]
  · rw [leaseBody_of_grantable wait (unnamed absent) ((grantable_iff _ _).2 grant), Answer.finish_of_no_skipped,
      leasePayload, heldKind_eq, List.append_nil, State.taking_lease]
  · rw [leaseBody_of_not_grantable wait (unnamed absent) (mt (grantable_iff _ _).1 denied), if_pos asks,
      Answer.finish_of_no_skipped, leasePayload, heldKind_eq, State.taking_lease]
  · rw [leaseBody_of_not_grantable wait (unnamed absent) (mt (grantable_iff _ _).1 denied), if_neg (by simp [asks]),
      Answer.finish_of_no_skipped, leasePayload, heldKind_eq, List.append_nil, State.taking_lease]

/-! ### RELEASE (R168, R169) -/

theorem releaseBody_of_named {p : Port} {s : State} {r : Fin 33} (named : (s.lease r).names p = true) :
    releaseBody p s [natByte r.val] =
      ⟨((s.updLease r (fun e => e.without p)).runArbiter r).2, .ok,
        [natByte r.val, flagByte (!s.holdsAny p r), natByte ((s.updLease r (fun e => e.without p)).runArbiter r).1], []⟩ := by
  rw [releaseBody, withBlock_of_some ((readOneIndex_eq_some (by decide)).2 rfl), require_of_pass named]

theorem releaseBody_of_unnamed {p : Port} {s : State} {r : Fin 33} (unnamed : ¬(s.lease r).names p = true) :
    releaseBody p s [natByte r.val] = refuse s .notLeased := by
  rw [releaseBody, withBlock_of_some ((readOneIndex_eq_some (by decide)).2 rfl), require_of_fail unnamed]

/-- Settles O17: the entry without the caller is what the arbiter finds. -/
theorem releaseEndsTheHoldingAndRunsTheArbiter : Obligations.ReleaseEndsTheHoldingAndRunsTheArbiter := by
  unfold Obligations.ReleaseEndsTheHoldingAndRunsTheArbiter
  intro s p seq params rest waits attached
  have answer : exec (.release p) s = .next ((releaseBody p (s.taking p rest) params).finish p 0x11 seq) :=
    exec_attached waits attached rfl
  dsimp only
  rw [answer]
  refine ⟨fun other => ?_, ?_⟩
  · rw [releaseBody, withBlock_of_unread fun r read => other r ((readOneIndex_eq_some (by decide)).1 read), finish_refuse]
  rintro r rfl
  refine ⟨fun stands => ⟨_, _, State.runArbiter_arbitrates _ r, ?_⟩, fun absent => ?_⟩
  · rw [releaseBody_of_named (s := s.taking p rest) ((LeaseEntry.names_iff _ _).2 stands), Answer.finish_of_no_skipped, State.holdsAny, State.taking_lease]
    cases (s.lease r).holders.any (fun h => h.1 = p) <;> rfl
  · have unnamed : ¬((s.taking p rest).lease r).names p = true := fun named => by
      obtain ⟨k, m⟩ := (LeaseEntry.names_iff _ _).1 named
      exact absent k m
    rw [releaseBody_of_unnamed unnamed, finish_refuse]

end Sys2Proof.Machine
end

section
/-! PROOFS. SET_HOLD, SET_POSITION and CONFIG_CHANNEL (R12, R144, R145, R152). -/
namespace Sys2Proof.Machine

/-! ### The exclusive lease that a command needs (R171) -/

theorem require_leased {s : State} {p : Port} {r : Fin 33} (leased : (p, LeaseKind.exclusive) ∈ (s.lease r).holders)
    (rest : List Frame) (res : Result) (k : Answer) :
    require (s.taking p rest) ((s.taking p rest).holdsExclusive p r) res k = k :=
  require_of_pass (((s.taking p rest).holdsExclusive_iff p r).2 leased) ..

theorem require_unleased {s : State} {p : Port} {r : Fin 33} (unleased : (p, LeaseKind.exclusive) ∉ (s.lease r).holders)
    (rest : List Frame) (res : Result) (k : Answer) :
    require (s.taking p rest) ((s.taking p rest).holdsExclusive p r) res k = refuse (s.taking p rest) res :=
  require_of_fail (mt ((s.taking p rest).holdsExclusive_iff p r).1 unleased) ..

/-! ### SET_HOLD (R152) -/

/-- Settles O21: the rule is one change of the hold cause set. -/
theorem setHoldAddsTheCallersCause : Obligations.SetHoldAddsTheCallersCause := by
  unfold Obligations.SetHoldAddsTheCallersCause
  intro s p seq rest waits attached
  refine ⟨_, State.changeHold_changed (s.taking p rest) (s.hold ||| causePort p) .set (some p), ?_⟩
  have answer : exec (.setHold p) s = .next ((setHoldBody p (s.taking p rest) []).finish p 0x70 seq) :=
    exec_attached waits attached rfl
  rw [answer, setHoldBody, withBlock_readNothing, if_pos rfl, Answer.finish_of_no_skipped, State.changeHold_hold,
    State.taking_hold]

/-! ### SET_POSITION (R12) -/

theorem positionStaged_iff (s : State) :
    s.positionStaged = true ↔ ∃ e ∈ s.recipes.stage, e.trigger ≠ .nextEntry := by
  simp [State.positionStaged]

theorem emptyLine_iff (s : State) : (s.items.live.isEmpty && !s.positionStaged) = true ↔
    ¬(s.items.live ≠ [] ∨ ∃ e ∈ s.recipes.stage, e.trigger ≠ .nextEntry) := by
  rw [Bool.and_eq_true, List.isEmpty_iff, Bool.not_eq_true', Bool.eq_false_iff, ne_eq, positionStaged_iff, not_or, not_ne_iff]

/-- Settles O24: three checks of the state that taking the frame leaves alone, and one update. -/
theorem setPositionMovesTheScale : Obligations.SetPositionMovesTheScale := by
  unfold Obligations.SetPositionMovesTheScale
  intro s p seq rest v waits attached
  have answer : exec (.setPosition p) s = .next ((setPositionBody p (s.taking p rest) (be32 v)).finish p 0x79 seq) :=
    exec_attached waits attached rfl
  dsimp only
  rw [answer, setPositionBody, withBlock_of_some (readPositionBlock_be32 v)]
  by_cases leased : (p, LeaseKind.exclusive) ∈ (s.lease 0).holders
  swap
  · rw [if_pos leased, require_unleased (r := resLine) leased, finish_refuse]
  rw [if_neg (not_not.2 leased), require_leased (r := resLine) leased]
  by_cases still : s.pos.motion = .still
  swap
  · rw [if_pos still, State.taking_pos, require_of_fail (mt of_decide_eq_true still), finish_refuse]
  rw [if_neg (not_not.2 still), State.taking_pos, require_of_pass (decide_eq_true still)]
  by_cases occupied : s.items.live ≠ [] ∨ ∃ e ∈ s.recipes.stage, e.trigger ≠ .nextEntry
  · rw [if_pos occupied, require_of_fail (mt (emptyLine_iff (s.taking p rest)).1 (not_not.2 occupied)), finish_refuse]
  · rw [if_neg occupied, require_of_pass ((emptyLine_iff (s.taking p rest)).2 occupied)]
    rfl

/-! ### CONFIG_CHANNEL (R144, R145) -/

theorem firingOn_eq (s : State) (c : Fin 16) :
    s.firingOn c = (s.actionsOf (s.schedule c)).countP (fun a => a.state = .on ∨ a.state = .waitGap) := by
  rw [State.firingOn, ← List.countP_eq_length_filter]
  congr 1
  funext a
  rw [Bool.eq_iff_iff, State.firing_iff, decide_eq_true_iff]

/-- Settles O20: the lease, the FIRING actions of the channel, and one update. -/
theorem configChannelWritesTheChannel : Obligations.ConfigChannelWritesTheChannel := by
  unfold Obligations.ConfigChannelWritesTheChannel
  intro s p seq params rest waits attached
  have answer : exec (.configChannel p) s = .next ((configChannelBody p (s.taking p rest) params).finish p 0x22 seq) :=
    exec_attached waits attached rfl
  dsimp only
  rw [answer]
  refine ⟨fun other => ?_, ?_⟩
  · have unread : ∀ b, readChannelBlock params ≠ some b := fun b read => by
      obtain ⟨span, laidOut⟩ := readChannelBlock_eq_some.1 read
      exact other b.channel b.polarity b.minGap b.policy b.span span laidOut
    rw [configChannelBody, withBlock_of_unread unread, finish_refuse]
  rintro c pol gap policy span rfl nonzero
  rw [configChannelBody, withBlock_of_some (b := ⟨c, pol, gap, policy, span⟩) (readChannelBlock_eq_some.2 ⟨nonzero, rfl⟩)]
  by_cases leased : (p, LeaseKind.exclusive) ∈ (s.lease (resChannel c)).holders
  swap
  · rw [require_unleased leased, finish_refuse]
    exact congrArg Host.Outcome.next (if_pos leased).symm
  rw [require_leased leased]
  refine congrArg Host.Outcome.next (Eq.trans ?_ (if_neg (not_not.2 leased)).symm)
  by_cases idle : s.firingOn c = 0
  · rw [if_neg (not_not.2 ((firingOn_eq s c).symm.trans idle))]
    exact congrArg (Answer.finish · p 0x22 seq) (if_pos idle)
  · rw [if_pos fun none => idle ((firingOn_eq s c).trans none), ← firingOn_eq]
    exact congrArg (Answer.finish · p 0x22 seq) (if_neg idle)

end Sys2Proof.Machine
end

section
/-! PROOFS. ERASE_RECIPE, READ_RECIPE, STAGE_RECIPE and CANCEL_STAGE (R64, R65, R68, R72). -/
namespace Sys2Proof.Machine

/-! ### ERASE_RECIPE (R64) -/

/-- What check 3 of R64 asks, in the words of the claims. -/
theorem recipeInUse_iff (s : State) (i : Fin 8) : s.recipeInUse i = true ↔
    s.recipes.current = i ∨ (∃ e ∈ s.recipes.stage, e.recipe = i) ∨ (s.recipe i).refCount ≠ 0 := by
  rw [← not_iff_not, Bool.not_eq_true, State.not_recipeInUse_iff]
  simp only [not_or, not_exists, not_and, not_not, ne_eq]

theorem eraseRecipeBody_of_refused {b : Byte} (refused : b = 0 ∨ 7 < b.toNat) (p : Port) (s : State) :
    eraseRecipeBody p s [b] = refuse s .badParameter := by
  refine withBlock_of_unread (fun i read => ?_) s _
  obtain ⟨read, nonzero⟩ := Option.filter_eq_some_iff.1 read
  have nonzero := of_decide_eq_true nonzero
  obtain rfl := (List.cons.inj ((readOneIndex_eq_some (by decide)).1 read)).1
  have small := i.isLt
  rw [← BitVec.toNat_inj, natByte_toNat (by omega)] at refused
  obtain zero | far := refused
  · exact nonzero (Fin.ext zero)
  · omega

/-- The answer to an index that R64 admits: the lease, the uses, and the erasure. -/
theorem eraseRecipeBody_of_index {i : Fin 8} (nonzero : i ≠ 0) (p : Port) (s : State) :
    eraseRecipeBody p s [natByte i.val] =
      require s (s.holdsExclusive p (resRecipe i)) .notLeased (
        require s (!s.recipeInUse i) .inUse
          ⟨s.updRecipe i (fun r => { r with valid := false, body := .empty }), .ok,
            [natByte i.val, flagByte (s.recipe i).valid], []⟩) := by
  have read : (readOneIndex 8 [natByte i.val]).filter (fun i => i ≠ 0) = some i :=
    Option.filter_eq_some_iff.2 ⟨(readOneIndex_eq_some (by decide)).2 rfl, decide_eq_true nonzero⟩
  rw [eraseRecipeBody, withBlock_of_some read]

/-- Settles O29: recipe 0 and an index above 7 are no block, and the lease and the uses are read in the state as it was. -/
theorem eraseRecipeLeavesTheEmptyBody : Obligations.EraseRecipeLeavesTheEmptyBody := by
  unfold Obligations.EraseRecipeLeavesTheEmptyBody
  intro s p seq b rest waits attached
  have answer : exec (.eraseRecipe p) s = .next ((eraseRecipeBody p (s.taking p rest) [b]).finish p 0x31 seq) :=
    exec_attached waits attached rfl
  dsimp only
  rw [answer]
  refine ⟨fun refused => ?_, ?_⟩
  · rw [eraseRecipeBody_of_refused refused, finish_refuse]
  rintro i nonzero rfl
  rw [eraseRecipeBody_of_index nonzero]
  refine ⟨fun unleased => ?_, fun leased used => ?_, fun leased unused => ?_⟩
  · rw [require_unleased (r := resRecipe i) unleased, finish_refuse]
  · have used := (recipeInUse_iff (s.taking p rest) i).2 used
    rw [require_leased (r := resRecipe i) leased, require_of_fail (by rw [used]; decide), finish_refuse]
  · have unused := Bool.eq_false_iff.2 (mt (recipeInUse_iff (s.taking p rest) i).1 unused)
    rw [require_leased (r := resRecipe i) leased, require_of_pass (by rw [unused]; rfl)]
    rfl

/-! ### READ_RECIPE (R65) -/

theorem conditionPort_eq (c : Condition) : conditionPort c = c.port := by cases c <;> rfl

/-- The bits that READ_RECIPE shows for a template's condition are the bits of its layout for some ignored value (log 19). -/
theorem templateBytes_eq (free : Nat) (t : Template) : ∃ ignored, (templateBytes free t).1 = t.block ignored := by
  unfold templateBytes Template.block conditionPortBits
  rw [conditionPort_eq]
  cases t.condition.port with
  | none => exact ⟨Config.ignoredPortBits free, rfl⟩
  | some q => exact ⟨0, rfl⟩

theorem templatesBytes_eq (free : Nat) (ts : List Template) : ∃ ignored : List (BitVec 2), ignored.length = ts.length ∧
    (templatesBytes free ts).1 = (ts.zip ignored).flatMap (fun x => x.1.block x.2) := by
  induction ts generalizing free with
  | nil => exact ⟨[], rfl, rfl⟩
  | cons t ts ih =>
    obtain ⟨first, block⟩ := templateBytes_eq free t
    obtain ⟨more, length, blocks⟩ := ih (templateBytes free t).2
    exact ⟨first :: more, congrArg (· + 1) length, by
      simp only [templatesBytes, block, blocks, List.zip_cons_cons, List.flatMap_cons]⟩

theorem block_eq (i : Fin 8) (b : RecipeBody) (ignored : List (BitVec 2)) :
    b.block i ignored = bodyBytes i b ++ (b.templates.zip ignored).flatMap (fun x => x.1.block x.2) := by
  simp only [RecipeBody.block, bodyBytes, List.append_assoc, List.cons_append, List.nil_append]

theorem stagedCount_eq (s : State) (i : Fin 8) :
    s.stagedCount i = s.recipes.stage.countP (fun (e : StageEntry) => e.recipe = i) :=
  List.countP_eq_length_filter.symm

/-- Settles O30: the templates' bytes are the layout of the body for some values of the bits that log 19 leaves open. -/
theorem readRecipeReturnsTheWrittenLayout : Obligations.ReadRecipeReturnsTheWrittenLayout := by
  unfold Obligations.ReadRecipeReturnsTheWrittenLayout
  intro s p seq params rest waits attached
  have answer : exec (.readRecipe p) s = .next ((readRecipeBody (s.taking p rest) params).finish p 0x32 seq) :=
    exec_attached waits attached rfl
  rw [answer]
  refine ⟨fun other => ?_, ?_⟩
  · rw [readRecipeBody, withBlock_of_unread fun i read => other i ((readOneIndex_eq_some (by decide)).1 read), finish_refuse]
  rintro i rfl
  obtain ⟨ignored, length, bytes⟩ := templatesBytes_eq s.free (s.recipe i).body.templates
  refine ⟨ignored, (templatesBytes s.free (s.recipe i).body.templates).2, length, ?_⟩
  rw [readRecipeBody, withBlock_of_some ((readOneIndex_eq_some (by decide)).2 rfl), block_eq, ← bytes,
    Answer.finish_of_no_skipped, stagedCount_eq, List.append_assoc]
  simp only [flagByte, decide_eq_true_eq]
  rfl

/-! ### STAGE_RECIPE (R68) -/

/-- Check 5 of R68 asks only an AT_POSITION point. -/
theorem triggerAhead_iff (s : State) (atPosition : Bool) (x : Position) :
    triggerAhead s.pos.lp (if atPosition then .atPosition x else .nextEntry) = true ↔
      ¬(atPosition = true ∧ ¬(1 ≤ (x - s.pos.lp).toNat ∧ (x - s.pos.lp).toNat ≤ 2147483647)) := by
  cases atPosition with
  | false => simp [triggerAhead]
  | true =>
    rw [if_pos rfl, triggerAhead, State.isAhead_iff, State.Ahead, not_and, not_not]
    exact ⟨fun ahead _ => ahead, fun ahead => ahead rfl⟩

@[simp] theorem taking_recipe (s : State) (p : Port) (rest : List Frame) (i : Fin 8) :
    (s.taking p rest).recipe i = s.recipe i := rfl

/-- Settles O31: the checks of R68 one after another, on a state that taking the frame leaves alone. -/
theorem stageRecipeJoinsTheTail : Obligations.StageRecipeJoinsTheTail := by
  unfold Obligations.StageRecipeJoinsTheTail
  intro s p seq params rest waits attached
  have answer : exec (.stageRecipe p) s = .next ((stageRecipeBody p (s.taking p rest) params).finish p 0x33 seq) :=
    exec_attached waits attached rfl
  dsimp only
  rw [answer]
  refine ⟨fun other => ?_, ?_⟩
  · have unread : ∀ b, readStageBlock params ≠ some b := fun b read => by
      obtain ⟨atPosition, x, -, laidOut⟩ := readStageBlock_eq_some.1 read
      exact other b.index atPosition x laidOut
    rw [stageRecipeBody, withBlock_of_unread unread, finish_refuse]
  rintro i atPosition x rfl
  have read : readStageBlock (natByte i.val :: (if atPosition then 1 else 0) :: be32 x) =
      some ⟨i, if atPosition then .atPosition x else .nextEntry⟩ :=
    readStageBlock_eq_some.2 ⟨atPosition, x, rfl, rfl⟩
  rw [stageRecipeBody, withBlock_of_some read]
  by_cases leased : (p, LeaseKind.exclusive) ∈ (s.lease 0).holders
  swap
  · rw [if_pos leased, require_unleased (r := resLine) leased, finish_refuse]
  rw [if_neg (not_not.2 leased), require_leased (r := resLine) leased]
  dsimp only
  rw [taking_recipe, taking_recipes, State.taking_pos]
  by_cases valid : (s.recipe i).valid = false
  · rw [if_pos valid, require_of_fail (Bool.eq_false_iff.1 valid), finish_refuse]
  rw [if_neg valid, require_of_pass (Bool.eq_true_of_not_eq_false valid)]
  by_cases full : 2 ≤ s.recipes.stage.length
  · rw [if_pos full, require_of_fail (mt of_decide_eq_true (not_lt.2 full)), finish_refuse]
  rw [if_neg full, require_of_pass (decide_eq_true (not_le.1 full))]
  by_cases past : atPosition = true ∧ ¬(1 ≤ (x - s.pos.lp).toNat ∧ (x - s.pos.lp).toNat ≤ 2147483647)
  · rw [if_pos past, require_of_fail (mt (triggerAhead_iff s _ _).1 (not_not.2 past)), finish_refuse]
  · rw [if_neg past, require_of_pass ((triggerAhead_iff s _ _).2 past)]
    rfl

/-! ### CANCEL_STAGE (R72) -/

theorem cancelledBytes_eq (e : StageEntry) :
    cancelledBytes e = [natByte e.recipe.val, if e.trigger = .nextEntry then 0 else 1] := by
  obtain ⟨i, trigger⟩ := e
  cases trigger <;> simp [cancelledBytes, triggerCode]

/-- CANCEL_STAGE NEWEST of a queue with a tail entry: one entry is removed, so that nothing is open. -/
theorem cancelStageBody_newest {s : State} {p : Port} (leased : s.holdsExclusive p resLine = true)
    {before : List StageEntry} {e : StageEntry} (queue : s.recipes.stage = before ++ [e]) :
    cancelStageBody p s [flagByte false] =
      ⟨s.setStage before, .ok, [1, natByte before.length] ++ cancelledBytes e, []⟩ := by
  rw [cancelStageBody, withBlock_of_some (readScopeBlock_eq_some.2 rfl), require_of_pass leased,
    require_of_pass (by simp [queue])]
  simp [queue, State.choose, natByte]

theorem cancelStageBody_all {s : State} {p : Port} (leased : s.holdsExclusive p resLine = true)
    (staged : s.recipes.stage ≠ []) : ∃ shown n, List.Perm shown s.recipes.stage ∧
    cancelStageBody p s [flagByte true] =
      ⟨{ s with free := n }.setStage [], .ok,
        [natByte s.recipes.stage.length, 0] ++ shown.flatMap cancelledBytes, []⟩ := by
  obtain ⟨n, chosen⟩ := s.choose_eq s.recipes.stage.length
  refine ⟨if (s.choose s.recipes.stage.length).1 = 0 then s.recipes.stage else s.recipes.stage.reverse, n, ?_, ?_⟩
  · split
    · exact .refl _
    · exact s.recipes.stage.reverse_perm
  · rw [cancelStageBody, withBlock_of_some (readScopeBlock_eq_some.2 rfl), require_of_pass leased,
      require_of_pass (by simp [staged])]
    simp only [if_true, List.length_nil, List.drop_zero, chosen]
    rfl

/-- Settles O32: NEWEST removes the tail, ALL every entry, shown in one order or the other. -/
theorem cancelStageRemovesNewestOrAll : Obligations.CancelStageRemovesNewestOrAll := by
  unfold Obligations.CancelStageRemovesNewestOrAll
  intro s p seq params rest waits attached
  have answer : exec (.cancelStage p) s = .next ((cancelStageBody p (s.taking p rest) params).finish p 0x34 seq) :=
    exec_attached waits attached rfl
  dsimp only
  rw [answer, ← funext cancelledBytes_eq]
  refine ⟨fun notNewest notAll => ?_, ?_⟩
  · have unread : ∀ all, readScopeBlock params ≠ some all := fun all read => by
      have laidOut := readScopeBlock_eq_some.1 read
      cases all
      · exact notNewest laidOut
      · exact notAll laidOut
    rw [cancelStageBody, withBlock_of_unread unread, finish_refuse]
  rintro all rfl
  have block : [if all = true then 1 else 0] = [flagByte all] := rfl
  rw [block]
  refine ⟨fun unleased => ?_, fun leased => ⟨fun empty => ?_, ?_, ?_⟩⟩
  · rw [cancelStageBody, withBlock_of_some (readScopeBlock_eq_some.2 rfl), require_unleased (r := resLine) unleased, finish_refuse]
  · rw [cancelStageBody, withBlock_of_some (readScopeBlock_eq_some.2 rfl), require_leased (r := resLine) leased,
      require_of_fail (by simp [empty]), finish_refuse]
  · rintro before e queue rfl
    rw [cancelStageBody_newest (((s.taking p rest).holdsExclusive_iff p resLine).2 leased) queue,
      Answer.finish_of_no_skipped, cancelledBytes_eq]
    rfl
  · rintro staged rfl
    obtain ⟨shown, n, perm, body⟩ :=
      cancelStageBody_all (((s.taking p rest).holdsExclusive_iff p resLine).2 leased) staged
    exact ⟨shown, n, perm, by rw [body]; rfl⟩

end Sys2Proof.Machine
end

section
/-! PROOFS. CLEAR_CHANNEL, READ_CHANNEL, VERDICT, READ_ITEM, LIST_ITEMS and REMOVE_ITEM (R49, R53, R54, R97, R103, R107 to
R109). -/
namespace Sys2Proof.Machine

/-! ### The lease of a channel (R171) -/

theorem holdsAny_iff (s : State) (p : Port) (r : Fin 33) : s.holdsAny p r = true ↔ ∃ k, (p, k) ∈ (s.lease r).holders := by
  simp [State.holdsAny]

theorem heldExclusiveByOther_iff (s : State) (p : Port) (r : Fin 33) :
    s.heldExclusiveByOther p r = true ↔ ∃ y, y ≠ p ∧ (y, LeaseKind.exclusive) ∈ (s.lease r).holders := by
  simp [State.heldExclusiveByOther]
  tauto

theorem requireChannel_of_leased {s : State} {p : Port} {c : Fin 16} (leased : ∃ k, (p, k) ∈ (s.lease (resChannel c)).holders)
    (k : Answer) : requireChannel s p c k = k :=
  if_pos ((holdsAny_iff s p _).2 leased)

theorem requireChannel_of_elsewhere {s : State} {p : Port} {c : Fin 16}
    (unleased : ¬∃ k, (p, k) ∈ (s.lease (resChannel c)).holders)
    (elsewhere : ∃ y, y ≠ p ∧ (y, LeaseKind.exclusive) ∈ (s.lease (resChannel c)).holders) (k : Answer) :
    requireChannel s p c k = refuse s .leasedElsewhere :=
  (if_neg (mt (holdsAny_iff s p _).1 unleased)).trans (if_pos ((heldExclusiveByOther_iff s p _).2 elsewhere))

theorem requireChannel_of_unleased {s : State} {p : Port} {c : Fin 16}
    (unleased : ¬∃ k, (p, k) ∈ (s.lease (resChannel c)).holders)
    (nowhere : ¬∃ y, y ≠ p ∧ (y, LeaseKind.exclusive) ∈ (s.lease (resChannel c)).holders) (k : Answer) :
    requireChannel s p c k = refuse s .notLeased :=
  (if_neg (mt (holdsAny_iff s p _).1 unleased)).trans (if_neg (mt (heldExclusiveByOther_iff s p _).1 nowhere))

/-! ### CLEAR_CHANNEL (R97) -/

theorem readOneIndex_of_large {n : Nat} {b : Byte} (large : n ≤ b.toNat) : readOneIndex n [b] = none :=
  dif_neg (not_lt.2 large)

theorem latchesOn_eq (s : State) (c : Fin 16) :
    s.latchesOn c = ((s.actionsOf (s.schedule c)).filter (fun a =>
      decide ((a.state = .on ∨ a.state = .waitGap) ∧ a.width = .latch))).map Action.handle := by
  rw [State.latchesOn]
  congr 2
  funext a
  rw [Bool.eq_iff_iff, Bool.and_eq_true, State.firing_iff, decide_eq_true_iff, decide_eq_true_iff]

/-- Settles O37: the lease of the channel is of any kind, and its latches end one after another. -/
theorem clearChannelEndsItsLatches : Obligations.ClearChannelEndsItsLatches := by
  unfold Obligations.ClearChannelEndsItsLatches
  intro s p seq b rest waits attached
  have answer : exec (.clearChannel p) s = .next ((clearChannelBody p (s.taking p rest) [b]).finish p 0x42 seq) :=
    exec_attached waits attached rfl
  dsimp only
  rw [answer]
  refine ⟨fun large => ?_, ?_⟩
  · rw [clearChannelBody, withBlock_of_none (readOneIndex_of_large large), finish_refuse]
  rintro c rfl
  rw [clearChannelBody, withBlock_of_some ((readOneIndex_eq_some (by decide)).2 rfl)]
  refine ⟨fun unleased elsewhere => ?_, fun unleased nowhere => ?_, fun leased => ?_⟩
  · rw [requireChannel_of_elsewhere (s := s.taking p rest) unleased elsewhere, finish_refuse]
  · rw [requireChannel_of_unleased (s := s.taking p rest) unleased nowhere, finish_refuse]
  · rw [requireChannel_of_leased (s := s.taking p rest) leased]
    refine ⟨_, State.endActions_inTurn .done _ (s.taking p rest), ?_⟩
    rw [Answer.finish_of_no_skipped, latchesOn_eq, List.length_map]
    rfl

/-! ### READ_CHANNEL (R103) -/

theorem natByte_lateDelayed (late delayed : Bool) :
    natByte ((if late then 1 else 0) + (if delayed then 2 else 0)) = (if late then 1 else 0) + (if delayed then 2 else 0) := by
  decide +revert

theorem shownFirePoint_eq (s : State) (a : Action) : s.shownFirePoint a =
    if a.state = .on ∨ a.state = .waitGap then a.handOver.getD (s.firePoint a) else s.firePoint a :=
  if_congr (State.firing_iff a) rfl rfl

/-- Settles O38: the payload is read from a state that taking the frame leaves alone. -/
theorem readChannelShowsTheSchedule : Obligations.ReadChannelShowsTheSchedule := by
  unfold Obligations.ReadChannelShowsTheSchedule
  intro s p seq params rest waits attached
  have answer : exec (.readChannel p) s = .next ((readChannelBody (s.taking p rest) params).finish p 0x43 seq) :=
    exec_attached waits attached rfl
  dsimp only
  rw [answer]
  refine ⟨fun other => ?_, ?_⟩
  · rw [readChannelBody, withBlock_of_unread fun c read => other c ((readOneIndex_eq_some (by decide)).1 read), finish_refuse]
  rintro c rfl
  have entry : (s.taking p rest).channelEntryBytes = s.channelEntryBytes := rfl
  have bytes : s.channelEntryBytes = fun a => be16 a.handle ++ be16 a.item ++
      [posterCode a.poster, actionStateCode a.state, condStateCode a.condState,
        (if a.late then 1 else 0) + (if a.delayed then 2 else 0)] ++
      be32 (if a.state = .on ∨ a.state = .waitGap then a.handOver.getD (s.firePoint a) else s.firePoint a) := by
    funext a
    rw [State.channelEntryBytes, natByte_lateDelayed, shownFirePoint_eq]
  rw [readChannelBody, withBlock_of_some ((readOneIndex_eq_some (by decide)).2 rfl), Answer.finish_of_no_skipped, entry, bytes]
  simp only [List.append_assoc, List.cons_append, List.nil_append] <;>
    rfl

/-! ### VERDICT (R107 to R109) -/

theorem decisionPointOf_eq (s : State) (it : Item) (p : Port) :
    s.decisionPointOf it p = it.base + ((s.recipe it.recipe).body.decision.get p).setWidth 32 :=
  State.plusCounts_offset ..

theorem verdictBody_of_block {n : Half} (nonzero : n ≠ 0) (v : Verdict) (code : BitVec 6) (p : Port) (s : State) :
    verdictBody p s (be16 n ++ [verdictCode v, code.setWidth 8]) =
      match s.item? n with
      | none => refuse s .noItem
      | some it =>
        match it.slots.get p with
        | .absent => refuse s .notVoter
        | .opened pending => s.storeVerdict p ⟨n, v, code⟩ it pending
        | .closed v code src =>
          ⟨s, .late, be16 n ++ slotBytes (.closed v code src) ++ be32 (s.decisionPointOf it p) ++ be32 s.pos.lp, []⟩ := by
  rw [verdictBody, withBlock_of_some (b := ⟨n, v, code⟩) (readVerdictBlock_eq_some.2 ⟨nonzero, rfl⟩)] <;> rfl

@[simp] theorem taking_item (s : State) (p : Port) (rest : List Frame) (n : Half) :
    (s.taking p rest).item? n = s.item? n := rfl

/-- Settles O41: the item and its slot decide the answer; storing touches the slot alone. -/
theorem verdictIsStoredOrLate : Obligations.VerdictIsStoredOrLate := by
  unfold Obligations.VerdictIsStoredOrLate
  intro s p seq params rest waits attached
  have answer : exec (.verdict p) s = .next ((verdictBody p (s.taking p rest) params).finish p 0x50 seq) :=
    exec_attached waits attached rfl
  dsimp only
  rw [answer]
  refine ⟨fun other => ?_, ?_⟩
  · have unread : ∀ b, readVerdictBlock params ≠ some b := fun b read => by
      obtain ⟨nonzero, laidOut⟩ := readVerdictBlock_eq_some.1 read
      exact other b.item b.verdict b.code nonzero laidOut
    rw [verdictBody, withBlock_of_unread unread, finish_refuse]
  rintro n v code rfl nonzero
  rw [verdictBody_of_block nonzero, taking_item]
  refine ⟨fun absent => ?_, fun it found => ⟨fun slot => ?_, fun slot => ?_, fun v1 c1 slot => ?_, fun v1 c1 src slot => ?_⟩⟩
  · rw [absent]
    rfl
  all_goals
    rw [found]
    dsimp only
    rw [slot]
  · rfl
  · simp only [State.storeVerdict, Answer.finish_of_no_skipped, decisionPointOf_eq, List.append_assoc]
    rfl
  · simp only [State.storeVerdict, Answer.finish_of_no_skipped, decisionPointOf_eq, List.append_assoc]
    rfl
  · simp only [Answer.finish_of_no_skipped, decisionPointOf_eq, slotBytes_pair]
    rfl

/-! ### READ_ITEM and LIST_ITEMS (R53, R54, R198) -/

theorem natByte_flags (a b c d : Bool) :
    natByte ((if a then 1 else 0) + (if b then 2 else 0) + (if c then 4 else 0) + (if d then 8 else 0)) =
      (if a then 1 else 0) + (if b then 2 else 0) + (if c then 4 else 0) + (if d then 8 else 0) := by
  decide +revert

theorem markBytes_eq (m : CheckpointMark) : markBytes m = match m.result with
    | .matched slip => BitVec.ofNat 8 m.input.val :: be24 (BitVec.ofInt 24 slip)
    | .missed => [0x80 ||| BitVec.ofNat 8 m.input.val, 0, 0, 0] := by
  obtain ⟨k, result⟩ := m
  cases result with
  | matched slip => rfl
  | missed =>
    have first : ∀ k : Fin 8, natByte (k.val + 128) = 0x80 ||| BitVec.ofNat 8 k.val := by decide
    have slip : int24 0 = [0, 0, 0] := by decide
    simp only [markBytes, first, slip]

/-- The live item that the number finds, and its index. -/
theorem item_of_split {s : State} {before after : List Item} {it : Item} (live : s.items.live = before ++ it :: after)
    (first : ∀ y ∈ before, y.number ≠ it.number) :
    s.item? it.number = some it ∧ s.itemIndex it.number = before.length := by
  have none_before : before.find? (fun y => y.number = it.number) = none :=
    List.find?_eq_none.2 fun y m => by simpa using first y m
  have not_before : before.findIdx (fun y => y.number = it.number) = before.length :=
    List.findIdx_eq_length.2 fun y m => by simpa using first y m
  constructor
  · simp [State.item?, live, List.find?_append, none_before]
  · simp [State.itemIndex, live, List.findIdx_append, not_before, List.findIdx_cons]

/-- Settles O43: each payload is read from a state that taking the frame leaves alone, field by field. -/
theorem readItemAndListItemsAnswerTheTable : Obligations.ReadItemAndListItemsAnswerTheTable := by
  unfold Obligations.ReadItemAndListItemsAnswerTheTable
  intro s p seq rest attached
  dsimp only
  refine ⟨fun n waits => ?_, fun b large waits => ?_, fun start waits => ?_⟩
  · have answer : exec (.readItem p) s = .next ((readItemBody (s.taking p rest) (be16 n)).finish p 0x60 seq) :=
      exec_attached waits attached rfl
    rw [answer, readItemBody, readItemBlock_be16]
    refine ⟨fun zero => ?_, fun nonzero absent => ?_, ?_⟩
    · rw [if_pos zero, withBlock, finish_refuse]
    · have none : s.item? n = none := List.find?_eq_none.2 fun y m => by simpa using absent y m
      rw [if_neg nonzero, withBlock, taking_item, none]
      rfl
    · rintro before it after nonzero live rfl first
      obtain ⟨found, index⟩ := item_of_split live first
      have index : (s.taking p rest).itemIndex it.number = before.length := index
      have exit : (s.taking p rest).exitPointOf it = it.base + s.line.exitDistance.setWidth 32 :=
        State.plusCounts_offset ..
      have length : be32 (it.length.getD 0xFFFFFFFF) = match it.length with
          | some x => be32 x
          | none => [0xFF, 0xFF, 0xFF, 0xFF] := by
        cases it.length with
        | none => decide
        | some x => rfl
      rw [if_neg nonzero, withBlock, taking_item, found]
      simp only [Answer.finish_of_no_skipped, State.itemBytes, index, exit, length, itemFlagsByte, natByte_flags, slotsBytes,
        slotBytes_pair, funext markBytes_eq, Item.base, int32, List.append_assoc, List.cons_append, List.nil_append] <;>
        rfl
  · have answer : exec (.listItems p) s = .next ((listItemsBody (s.taking p rest) [b]).finish p 0x61 seq) :=
      exec_attached waits attached rfl
    rw [answer, listItemsBody, withBlock_of_none (readOneIndex_of_large large), finish_refuse]
  · have answer : exec (.listItems p) s =
        .next ((listItemsBody (s.taking p rest) [natByte start.val]).finish p 0x61 seq) :=
      exec_attached waits attached rfl
    rw [answer, listItemsBody, withBlock_of_some ((readOneIndex_eq_some (by decide)).2 rfl)]
    rfl

/-! ### REMOVE_ITEM (R49) -/

/-- Settles O44: after the checks the item is taken out as R49 has it (`takeOut_takenOut`). -/
theorem removeItemTakesTheItemOut : Obligations.RemoveItemTakesTheItemOut := by
  unfold Obligations.RemoveItemTakesTheItemOut
  intro s p seq rest n waits attached
  have answer : exec (.removeItem p) s = .next ((removeItemBody p (s.taking p rest) (be16 n)).finish p 0x62 seq) :=
    exec_attached waits attached rfl
  dsimp only
  rw [answer, removeItemBody, readItemBlock_be16]
  have leaseOf := holdsAny_iff (s.taking p rest) p resLine
  refine ⟨fun zero => ?_, fun nonzero unleased => ?_, fun nonzero leased absent => ?_, fun it nonzero leased found => ?_⟩
  · rw [if_pos zero, withBlock, finish_refuse]
  · rw [if_neg nonzero, withBlock, require_of_fail (mt leaseOf.1 unleased), finish_refuse]
  · rw [if_neg nonzero, withBlock, require_of_pass (leaseOf.2 leased), taking_item, absent]
    rfl
  · have firing : (s.taking p rest).isFiring = fun h =>
        (s.action? h).any (fun a => decide (a.state = .on ∨ a.state = .waitGap)) := by
      funext h
      rw [State.isFiring, State.taking_action]
      congr 1
      funext a
      rw [Bool.eq_iff_iff, State.firing_iff, decide_eq_true_iff]
    refine ⟨_, State.takeOut_takenOut (s := s.taking p rest) found .removed, ?_⟩
    rw [if_neg nonzero, withBlock, require_of_pass (leaseOf.2 leased), taking_item, found]
    simp only [Answer.finish_of_no_skipped, firing, List.countP_eq_length_filter]

end Sys2Proof.Machine
end

section
/-! PROOFS. The byte formats and the code tables of spec 12 (R178, R179, R183, R196, R198). -/
namespace Sys2Proof.Machine

/-! ### The CRC (R179) -/

theorem crcShift_eq_zero_iff (c : Byte) : crcShift c = 0 ↔ c = 0 := by
  revert c; decide

/-- A byte brings the register to 0 exactly when it is what the register holds. -/
theorem crcByte_eq_zero_iff (c b : Byte) : crcByte c b = 0 ↔ b = c := by
  simp only [crcByte, crcShift_eq_zero_iff]
  exact BitVec.xor_eq_zero_iff.trans eq_comm

theorem crc8_concat (bytes : List Byte) (c : Byte) : crc8 (bytes ++ [c]) = crcByte (crc8 bytes) c := by
  rw [crc8, List.foldl_concat, crc8]

/-! ### Flags and single fields -/

theorem voterSetByte_eq (v : PerPort Bool) : voterSetByte v = flagsFrom [v.a, v.b, v.c] := by
  obtain ⟨a, b, c⟩ := v
  cases a <;> cases b <;> cases c <;> rfl

theorem widthValue_time (x : Half) : (widthValue (.time x)).toNat = x.toNat := by
  have := x.isLt
  rw [widthValue, BitVec.toNat_setWidth]
  omega

theorem encoderModeCode_eq (m : EncoderMode) : encoderModeCode m =
    match m with
    | .quad1 => 0
    | .quad2 => 1
    | .quad4 => 2
    | .stepDir => 3
    | .upDown => 4 := by
  cases m <;> rfl

theorem lineBytes_eq (c : LineConfig) : lineBytes c =
    [encoderModeCode c.encoderMode, if c.invert then 1 else 0, c.encoderFilter.setWidth 8] ++
    (0 :: be24 c.exitDistance) ++ (0 :: be24 c.entryBlanking) ++ (0 :: be24 c.jamLength) ++
    be16 c.reverseAllowance ++ [c.standstillTime, c.ranks.a, c.ranks.b, c.ranks.c] ++ be16 c.holdMask := by
  rw [lineBytes, be32_offset, be32_offset, be32_offset, flagByte]

theorem one_byte_codes (b : Byte) :
    readActiveLevel b = (if b = 0 then some .high else if b = 1 then some .low else none) ∧
    readPolarity b = (if b = 0 then some .activeHigh else if b = 1 then some .activeLow else none) ∧
    readOrphan b = (if b = 0 then some .keep else if b = 1 then some .cancel else none) ∧
    readScopeBlock [b] = (if b = 0 then some false else if b = 1 then some true else none) ∧
    readBool b = (if b = 0 then some false else if b = 1 then some true else none) := by
  revert b; decide

/-- Settles O3: the layouts by unfolding, the CRC from its last shift on, the code tables by evaluation. -/
theorem formatsAndCodesAreAsLaidOut : Obligations.FormatsAndCodesAreAsLaidOut := by
  unfold Obligations.FormatsAndCodesAreAsLaidOut
  refine ⟨fun a b c d => ⟨be16_read16 a b, be24_read24 a b c, be32_read32 a b c d⟩, fun _ _ _ => rfl, fun _ _ _ _ _ => rfl,
    fun bytes c => ?_, by decide, by decide, by decide +kernel, slotBytes_pair, fun k slip => ⟨rfl, markBytes_eq _⟩, fun c => ?_, rfl,
    rfl, rfl, rfl, ⟨rfl, rfl, fun _ => rfl⟩,
    ⟨fun _ => rfl, fun _ => rfl, rfl, fun _ => rfl, widthValue_time⟩,
    ⟨rfl, fun _ => ⟨rfl, rfl⟩, rfl, rfl⟩, rfl, rfl, rfl, rfl, rfl, rfl, rfl, rfl, rfl, rfl, rfl, rfl,
    ⟨rfl, rfl, one_byte_codes⟩, ⟨rfl, fun _ => rfl⟩, ⟨rfl, fun _ => rfl⟩, voterSetByte_eq, rfl,
    ⟨rfl, fun k => Nat.add_comm .., fun c => Nat.add_comm .., fun i => Nat.add_comm ..⟩, rfl, rfl, rfl, rfl, rfl, rfl, rfl,
    rfl, by decide⟩
  · rw [crc8_concat, crcByte_eq_zero_iff]
  · rw [lineBytes_eq, encoderModeCode_eq] <;> rfl

end Sys2Proof.Machine
end

section
/-! PROOFS. The end of a session (R161 to R163, R165, R193): what each of its steps leaves unchanged, and DETACH, PORT_RESET and
the keepalive expiry. -/
namespace Sys2Proof.Machine

namespace State

/-! ### Step 1 of R161: the leases -/

/-- The arbiters of several resources, each run once: what becomes of one entry. -/
theorem runArbiters_lease (rs : List (Fin 33)) (distinct : rs.Nodup) (s : State) (r : Fin 33) :
    (r ∉ rs → (rs.foldl (fun t r => (t.runArbiter r).2) s).lease r = s.lease r) ∧
    (r ∈ rs → ∃ n u v, Arbitrates r n u v ∧ u.lease r = s.lease r ∧
      (rs.foldl (fun t r => (t.runArbiter r).2) s).lease r = v.lease r) := by
  induction rs generalizing s with
  | nil => exact ⟨fun _ => rfl, fun m => absurd m List.not_mem_nil⟩
  | cons q rs ih =>
    obtain ⟨fresh, distinct⟩ := List.nodup_cons.1 distinct
    have run := s.runArbiter_arbitrates q
    obtain ⟨out, within⟩ := ih distinct (s.runArbiter q).2
    rw [List.foldl_cons]
    refine ⟨fun m => ?_, fun m => ?_⟩
    · rw [List.mem_cons, not_or] at m
      rw [out m.2, run.lease_other m.1]
    · by_cases same : r = q
      · subst same
        exact ⟨_, _, _, run, rfl, out fresh⟩
      · obtain ⟨n, u, v, arbitrates, before, after⟩ := within ((List.mem_cons.1 m).resolve_left same)
        exact ⟨n, u, v, arbitrates, before.trans (run.lease_other same), after⟩

theorem endLeases_unnamed (s : State) {p : Port} {r : Fin 33} (unnamed : (s.lease r).names p = false) :
    ((s.updPort p PortState.detach).endLeases p).lease r = s.lease r := by
  rw [endLeases_eq, (runArbiters_lease _ ((List.nodup_finRange 33).filter _) _ r).1 (by simp [unnamed]), sessionLeft_lease,
    LeaseEntry.without_of_not_names unnamed]

theorem endLeases_named (s : State) {p : Port} {r : Fin 33} (named : (s.lease r).names p = true) :
    ∃ n u v, Arbitrates r n u v ∧ u.lease r = (s.lease r).without p ∧
      ((s.updPort p PortState.detach).endLeases p).lease r = v.lease r := by
  rw [endLeases_eq, ← sessionLeft_lease]
  exact (runArbiters_lease _ ((List.nodup_finRange 33).filter _) _ r).2 (by simp [named])

theorem endLeases_rest (s : State) (p : Port) : (s.updPort p PortState.detach).endLeases p =
    { s with
      leases := ((s.updPort p PortState.detach).endLeases p).leases
      ports := ((s.updPort p PortState.detach).endLeases p).ports } :=
  (s.endLeases_moved p).rest

/-! ### Step 2 of R161: the actions -/

/-- What the orphan order leaves alone (R102). -/
structure OrphansMoved (s t : State) : Prop where
  settings : t.rstn = s.rstn ∧ t.pos = s.pos ∧ t.line = s.line ∧ t.inputs = s.inputs ∧ t.free = s.free ∧
    t.pending = s.pending
  hold : t.hold = s.hold
  leases : t.leases = s.leases
  slots : ∀ y ∈ t.items.live, ∃ x ∈ s.items.live, y.number = x.number ∧ y.recipe = x.recipe ∧ y.slots = x.slots
  recipes : t.recipes.stage = s.recipes.stage ∧ t.recipes.current = s.recipes.current ∧
    ∀ i, (t.recipe i).valid = (s.recipe i).valid ∧ (t.recipe i).body = (s.recipe i).body
  configuration : ∀ c, (s.channel c).SameConfig (t.channel c)

theorem Ends.orphansMoved {s t : State} (ends : s.Ends t) : s.OrphansMoved t where
  settings := ⟨ends.rstn, ends.pos, ends.line, ends.inputs, ends.free, ends.pending⟩
  hold := ends.hold
  leases := ends.leases
  slots y m := by
    obtain ⟨x, mx, kept⟩ := ends.kept y m
    exact ⟨x, mx, kept.number, kept.recipe, kept.slots⟩
  recipes := ⟨ends.stage, ends.current, ends.recipe⟩
  configuration c := (ends.channels c).config

theorem OrphansMoved.of_actions {s t : State} (h : t = { s with actions := t.actions }) : s.OrphansMoved t := by
  rw [h]
  exact ⟨⟨rfl, rfl, rfl, rfl, rfl, rfl⟩, rfl, rfl, fun y m => ⟨y, m, rfl, rfl, rfl⟩, ⟨rfl, rfl, fun _ => ⟨rfl, rfl⟩⟩,
    fun _ => .refl _⟩

theorem orphanOrder_keep (s : State) (p : Port) :
    s.orphanOrder p .keep = { s with actions := { s.actions with pool := (s.orphanOrder p .keep).actions.pool } } :=
  (s.orphanOrder_orphaned p .keep).1

theorem orphanOrder_moved (s : State) (p : Port) (policy : OrphanPolicy) : s.OrphansMoved (s.orphanOrder p policy) := by
  cases policy with
  | keep => exact .of_actions (by rw [orphanOrder_keep])
  | cancel => exact (Ends.endActions s .cancelled _).orphansMoved

/-- Under KEEP the port's actions stay bound, and report to NONE. -/
theorem orphanOrder_keep_action (s : State) (p : Port) (h : Handle) : (s.orphanOrder p .keep).action? h =
    if h ∈ s.postedBy p then (s.action? h).map (fun a => { a with report := none }) else s.action? h := by
  obtain ⟨-, entries⟩ := s.orphanOrder_orphaned p .keep
  rw [action_of_entries (f := fun g a => if g ∈ s.postedBy p then { a with report := none } else a) entries h]
  split
  · rfl
  · exact Option.map_id'

/-! ### Steps 3 and 4 of R161: the hold cause set -/

theorem changeHold_rest (s : State) (after : Half) (origin : HoldOrigin) (port : Option Port) :
    s.changeHold after origin port =
      { s with hold := after, ports := (s.changeHold after origin port).ports } :=
  (s.changeHold_changed after origin port).1

theorem endHold_rest (s : State) (p : Port) (reason : EndReason) : s.endHold p reason =
    { s with hold := (s.endHold p reason).hold, ports := (s.endHold p reason).ports } := by
  unfold endHold
  dsimp only
  split
  · rw [(raiseHold_changed _ _).1, changeHold_rest]
  · rw [changeHold_rest]

theorem endHold_hold (s : State) (p : Port) (reason : EndReason) : (s.endHold p reason).hold =
    if reason = .expired ∧ s.line.holdMask &&& causeSessionLost ≠ 0 then (s.hold &&& ~~~causePort p) ||| causeSessionLost
    else s.hold &&& ~~~causePort p := by
  unfold endHold
  dsimp only
  by_cases expired : reason = .expired
  · rw [if_pos expired, (raiseHold_changed _ _).hold_eq, changeHold_rest]
    by_cases masked : s.line.holdMask &&& causeSessionLost = 0
    · rw [if_pos masked, if_neg (fun h => h.2 masked)]
    · rw [if_neg masked, if_pos ⟨expired, masked⟩]
  · rw [if_neg expired, changeHold_rest, if_neg (fun h => expired h.1)]

/-! ### The whole of R161 -/

/-- The state between steps 2 and 3 of R161. -/
def sessionOrphaned (s : State) (p : Port) : State :=
  ((s.updPort p PortState.detach).endLeases p).orphanOrder p (s.port p).session.orphan

theorem sessionGivenBack_eq (s : State) (p : Port) (reason : EndReason) :
    s.sessionGivenBack p reason = (s.sessionOrphaned p).endHold p reason := rfl

/-- The leases moved first, the orphan order sees every other block as it was. -/
theorem sessionOrphaned_moved (s : State) (p : Port) : ∃ u : State, u = { s with leases := u.leases, ports := u.ports } ∧
    u.leases = ((s.updPort p PortState.detach).endLeases p).leases ∧ u.OrphansMoved (s.sessionOrphaned p) :=
  ⟨_, s.endLeases_rest p, rfl, orphanOrder_moved _ _ _⟩

theorem sessionOrphaned_leases (s : State) (p : Port) :
    (s.sessionOrphaned p).leases = ((s.updPort p PortState.detach).endLeases p).leases :=
  (orphanOrder_moved _ _ _).leases

/-- Outside the hold cause set and the ports, the session's end is what its first two steps leave. -/
theorem endSession_rest (s : State) (p : Port) (reason : EndReason) : s.endSession p reason =
    { s.sessionOrphaned p with
      hold := (s.endSession p reason).hold, ports := (s.endSession p reason).ports } := by
  rw [endSession_eq, sessionGivenBack_eq, endHold_rest]
  rfl

theorem endSession_lease (s : State) (p : Port) (reason : EndReason) (r : Fin 33) :
    (s.endSession p reason).lease r = ((s.updPort p PortState.detach).endLeases p).lease r := by
  rw [endSession_rest, State.lease, State.lease, ← sessionOrphaned_leases]

theorem endSession_port_self (s : State) (p : Port) (reason : EndReason) :
    (s.endSession p reason).port p = ((s.port p).detach).clearSession reason := by
  have offered := s.sessionGivenBack_ports p reason p
  rw [sessionLeft_port_self] at offered
  rw [endSession_eq, port_setPort_self, offered.eq_of_detached rfl]

theorem endSession_port_other (s : State) {p q : Port} (other : q ≠ p) (reason : EndReason) :
    (s.port q).OnlyNotices ((s.endSession p reason).port q) := by
  have offered := s.sessionGivenBack_ports p reason q
  rw [sessionLeft_port_other s other] at offered
  rw [endSession_eq, port_setPort_other _ _ other]
  exact offered.onlyNotices

/-- The actions posted by the port when step 2 begins are those posted when the session ends (log 23). -/
theorem endLeases_postedBy (s : State) (p : Port) :
    ((s.updPort p PortState.detach).endLeases p).postedBy p = s.postedBy p := by
  rw [s.endLeases_rest p]
  rfl

theorem endSession_action (s : State) (p : Port) (reason : EndReason) (h : Handle) :
    (s.endSession p reason).action? h = (s.sessionOrphaned p).action? h := by
  rw [endSession_rest]
  rfl

theorem endLeases_action (s : State) (p : Port) (h : Handle) :
    ((s.updPort p PortState.detach).endLeases p).action? h = s.action? h := by
  rw [endLeases_rest]
  rfl

/-- Under KEEP the session's end changes report ports, and no other part of an action or of a channel. -/
theorem endSession_kept {s : State} {p : Port} (keep : (s.port p).session.orphan = .keep) (reason : EndReason) :
    s.endSession p reason =
      { s with
        actions := { s.actions with pool := (s.endSession p reason).actions.pool }
        leases := (s.endSession p reason).leases
        hold := (s.endSession p reason).hold, ports := (s.endSession p reason).ports } := by
  rw [endSession_rest, sessionOrphaned, keep, orphanOrder_keep, endLeases_rest]

theorem endSession_kept_action {s : State} {p : Port} (keep : (s.port p).session.orphan = .keep) (reason : EndReason)
    (h : Handle) : (s.endSession p reason).action? h =
      if h ∈ s.postedBy p then (s.action? h).map (fun a => { a with report := none }) else s.action? h := by
  rw [endSession_action, sessionOrphaned, keep, orphanOrder_keep_action, endLeases_postedBy, endLeases_action]

/-- Under CANCEL the port's actions end, and no handle comes to name another action. -/
theorem endSession_cancelled {s : State} {p : Port} (cancel : (s.port p).session.orphan = .cancel) (reason : EndReason) :
    (∀ h ∈ s.postedBy p, (s.endSession p reason).action? h = none) ∧
      ∀ h a, (s.endSession p reason).action? h = some a → s.action? h = some a := by
  refine ⟨fun h posted => ?_, fun h a bound => ?_⟩
  · rw [← endLeases_postedBy] at posted
    rw [endSession_action, sessionOrphaned, cancel]
    exact endActions_action _ .cancelled _ posted
  · rw [endSession_action, sessionOrphaned, cancel] at bound
    rw [← s.endLeases_action p]
    exact (Ends.endActions _ .cancelled _).action_eq bound

theorem sessionOrphaned_line (s : State) (p : Port) : (s.sessionOrphaned p).line = s.line := by
  obtain ⟨u, from_s, -, moved⟩ := s.sessionOrphaned_moved p
  obtain ⟨-, -, line, -⟩ := moved.settings
  rw [line, from_s]

theorem sessionOrphaned_hold (s : State) (p : Port) : (s.sessionOrphaned p).hold = s.hold := by
  obtain ⟨u, from_s, -, moved⟩ := s.sessionOrphaned_moved p
  rw [moved.hold, from_s]

/-- The order of R161, with the hold mask read before it begins. -/
theorem endSession_inOrder (s : State) (p : Port) (reason : EndReason) : ∃ u v w x : State,
    State.ArbitratesInTurn ((List.finRange 33).filter (fun r => (s.lease r).names p)) (s.sessionLeft p) u ∧
    u.Orphaned v p (s.port p).session.orphan ∧
    v.HoldChanged w (v.hold &&& ~~~causePort p) .sessionEnd (some p) ∧
    (if reason = .expired then
      w.HoldChanged x (if s.line.holdMask &&& causeSessionLost = 0 then w.hold else w.hold ||| causeSessionLost)
        .raised none
    else x = w) ∧
    s.endSession p reason = x.setPort p ((s.endSession p reason).port p) := by
  refine ⟨_, s.sessionOrphaned p, _, (s.sessionOrphaned p).endHold p reason, runArbiters_inTurn _ _,
    orphanOrder_orphaned _ _ _, changeHold_changed _ _ .sessionEnd (some p), ?_, ?_⟩
  · have line : ((s.sessionOrphaned p).changeHold ((s.sessionOrphaned p).hold &&& ~~~causePort p) .sessionEnd
        (some p)).line = s.line := by
      rw [changeHold_rest]
      exact s.sessionOrphaned_line p
    rw [endHold, ← line]
    split
    · exact raiseHold_changed _ _
    · rfl
  · rw [endSession_eq, port_setPort_self, sessionGivenBack_eq]

/-- A session that ends, as R161 has it. -/
theorem endSession_ended (s : State) (p : Port) (reason : EndReason) : s.SessionEnded (s.endSession p reason) p reason := by
  obtain ⟨u, from_s, -, moved⟩ := s.sessionOrphaned_moved p
  have outside := s.endSession_rest p reason
  exact
    { port := by rw [endSession_port_self]; rfl
      others := fun q other => s.endSession_port_other other reason
      notNamed := fun r unnamed => by rw [endSession_lease, endLeases_unnamed s unnamed]
      named := fun r named => by rw [endSession_lease]; exact endLeases_named s named
      hold := by
        rw [endSession_eq, setPort_hold, sessionGivenBack_eq, endHold_hold, sessionOrphaned_hold, sessionOrphaned_line]
      kept := fun keep => by
        have whole := endSession_kept keep reason
        exact ⟨by rw [whole], by rw [whole], by rw [whole], by rw [whole], by rw [whole], endSession_kept_action keep reason⟩
      cancelled := fun cancel => endSession_cancelled cancel reason
      slots := by rw [outside]; have := moved.slots; rwa [from_s] at this
      recipes := by rw [outside]; have := moved.recipes; rwa [from_s] at this
      configuration := fun c => by
        rw [outside]
        have same := moved.configuration c
        rw [from_s] at same
        exact ⟨same.polarity, same.minGap, same.policy, same.span⟩
      steps := s.endSession_inOrder p reason
      rest := by rw [outside]; have := moved.settings; rwa [from_s] at this }

end State

/-! ### DETACH, PORT_RESET and the keepalive expiry -/

theorem orphanCount_eq (s : State) (p : Port) : s.orphanCount p = (s.postedBy p).length := by
  rw [State.orphanCount, State.endLeases_postedBy]

theorem portResetBody_attached {s : State} {p : Port} (attached : (s.port p).session.attached = true) :
    portResetBody p s [] = ⟨s.endSession p .portReset, .ok, [1, 3], []⟩ := by
  have last : ((s.endSession p .portReset).port p).session.lastEnd = .portReset := by
    rw [State.endSession_port_self]
    rfl
  rw [portResetBody, withBlock_readNothing, if_pos rfl]
  simp only [attached, if_true, last]
  rfl

theorem portResetBody_detached {s : State} {p : Port} (detached : (s.port p).session.attached = false) :
    portResetBody p s [] =
      ⟨s.updPort p PortState.resetDetached, .ok, [0, endReasonCode (s.port p).session.lastEnd], []⟩ := by
  rw [portResetBody, withBlock_readNothing, if_pos rfl]
  simp [detached, flagByte, PortState.resetDetached]

/-- Taking a frame of a detached port leaves its session alone. -/
theorem taking_detached {s : State} {p : Port} (detached : (s.port p).session.attached = false) (rest : List Frame) :
    s.taking p rest = s.setPort p { s.port p with waiting := rest } := by
  rw [State.taking, Session.heard, if_neg (by simp [detached])]

/-- Settles O12: the three ways in which a session ends are one operation (`endSession_ended`); a detached port only has its
buffers cleared. -/
theorem sessionEndGivesBackAndClears : Obligations.SessionEndGivesBackAndClears := by
  unfold Obligations.SessionEndGivesBackAndClears
  intro s p seq rest
  refine ⟨fun attached waits => ⟨_, State.endSession_ended (s.taking p rest) p .detach, ?_⟩,
    fun attached waits => ⟨_, State.endSession_ended (s.taking p rest) p .portReset, ?_⟩,
    fun attached running => ⟨_, State.endSession_ended s p .expired, ?_⟩, fun detached waits => ?_⟩
  · have answer : exec (.detach p) s = .next ((detachBody p (s.taking p rest) []).finish p 0x02 seq) :=
      exec_attached waits attached rfl
    rw [answer, detachBody, withBlock_readNothing, if_pos rfl, Answer.finish_of_no_skipped, orphanCount_eq]
    rfl
  · have answer : exec (.portReset p) s = .next ((portResetBody p (s.taking p rest) []).finish p 0x03 seq) :=
      exec_attached waits attached rfl
    rw [answer, portResetBody_attached (by rw [taking_attached, attached]), Answer.finish_of_no_skipped]
  · have expires : exec (.keepaliveExpiry p) s = .next (s.keepaliveExpires p) := rfl
    rw [expires, State.keepaliveExpires, if_pos (by simp [attached, Option.isSome_iff_ne_none, running])]
  · have answer : exec (.portReset p) s = .next ((portResetBody p (s.taking p rest) []).finish p 0x03 seq) :=
      exec_row_eq_finish waits nofun
    rw [answer, portResetBody_detached (by rw [taking_attached, detached]), Answer.finish_of_no_skipped, taking_lastEnd,
      taking_detached detached, State.updPort, State.port_setPort_self, State.setPort_setPort, PortState.resetDetached]

end Sys2Proof.Machine
end

section
/-! PROOFS. CONFIG_LINE (R14, R173, R174): its block, what offends an exit distance, and the configuration written whole. -/
namespace Sys2Proof.Machine

/-! ### The block (R173, spec 12) -/

theorem readDistance_eq_some {least : Nat} {b3 b2 b1 b0 : Byte} {x : Offset} :
    readDistance least b3 b2 b1 b0 = some x ↔ least ≤ x.toNat ∧ be32 (x.setWidth 32) = [b3, b2, b1, b0] := by
  have := x.isLt
  rw [readDistance, be32_eq_iff]
  have carried : (x.setWidth 32).toNat = x.toNat := by rw [BitVec.toNat_setWidth]; omega
  constructor
  · intro read
    split at read <;> cases read
    rename_i within
    have back : ((read32 b3 b2 b1 b0).setWidth 24 : Offset).toNat = (read32 b3 b2 b1 b0).toNat := by
      rw [BitVec.toNat_setWidth]; omega
    exact ⟨by omega, BitVec.eq_of_toNat_eq (by omega)⟩
  · rintro ⟨low, value⟩
    rw [← value, carried, if_pos ⟨low, by omega⟩]
    exact congrArg some (BitVec.eq_of_toNat_eq (by simp only [BitVec.toNat_setWidth]; omega))

/-- The ranks that R173 admits. -/
def RanksDistinct (r : PerPort Byte) : Prop :=
  (∀ p, 1 ≤ (r.get p).toNat ∧ (r.get p).toNat ≤ 3) ∧ r.a ≠ r.b ∧ r.b ≠ r.c ∧ r.a ≠ r.c

theorem readRanks_eq_some {a b c : Byte} {r : PerPort Byte} :
    readRanks a b c = some r ↔ r = ⟨a, b, c⟩ ∧ RanksDistinct r := by
  have each : ([a, b, c].all (fun r => 1 ≤ r.toNat && r.toNat ≤ 3) && a ≠ b && b ≠ c && a ≠ c) = true ↔
      RanksDistinct ⟨a, b, c⟩ := by
    have ports : (∀ p, 1 ≤ ((⟨a, b, c⟩ : PerPort Byte).get p).toNat ∧ ((⟨a, b, c⟩ : PerPort Byte).get p).toNat ≤ 3) ↔
        (1 ≤ a.toNat ∧ a.toNat ≤ 3) ∧ (1 ≤ b.toNat ∧ b.toNat ≤ 3) ∧ (1 ≤ c.toNat ∧ c.toNat ≤ 3) :=
      ⟨fun h => ⟨h .A, h .B, h .C⟩, fun ⟨ha, hb, hc⟩ p => by cases p <;> assumption⟩
    simp [RanksDistinct, ports, and_assoc]
  rw [readRanks]
  split
  · rename_i ranked
    exact ⟨fun h => by cases h; exact ⟨rfl, each.1 ranked⟩, fun h => by rw [h.1]⟩
  · rename_i unranked
    exact ⟨nofun, fun ⟨same, ranked⟩ => absurd (each.2 (same ▸ ranked)) unranked⟩

theorem readFilter_eq_some {b : Byte} {x : BitVec 3} :
    readIndex 8 b = some x.toFin ↔ b = x.setWidth 8 := by
  have := x.isLt
  rw [readIndex_eq_some (by decide), BitVec.val_toFin, ← BitVec.toNat_inj, natByte_toNat (by omega)]
  rw [← BitVec.toNat_inj, BitVec.toNat_setWidth, Nat.mod_eq_of_lt (by omega)]

theorem inRange_iff (c : LineConfig) : c.InRange ↔ 1 ≤ c.exitDistance.toNat ∧ 1 ≤ c.jamLength.toNat ∧
    RanksDistinct c.ranks ∧ ¬(c.standstillTime = 0 ∨ c.holdMask &&& ~~~conditionCauses ≠ 0) := by
  have nonzero : ∀ x : Offset, x ≠ 0 ↔ 1 ≤ x.toNat := fun x => by
    rw [ne_eq, ← BitVec.toNat_inj]
    exact Nat.pos_iff_ne_zero.symm
  constructor
  · intro h
    exact ⟨(nonzero _).1 h.exit, (nonzero _).1 h.jam, ⟨h.ranks, h.distinct⟩,
      not_or.2 ⟨h.standstill, not_not.2 h.mask⟩⟩
  · rintro ⟨exit, jam, ⟨ranks, distinct⟩, rest⟩
    obtain ⟨standstill, mask⟩ := not_or.1 rest
    exact ⟨(nonzero _).2 exit, (nonzero _).2 jam, standstill, ranks, distinct, not_not.1 mask⟩

theorem readLineBlock_eq_some {params : List Byte} {c : LineConfig} :
    readLineBlock params = some c ↔ c.InRange ∧ params = lineBytes c := by
  rw [inRange_iff]
  constructor
  · intro read
    unfold readLineBlock at read
    split at read
    · simp only [Option.bind_eq_bind, Option.bind_eq_some_iff, readEncoderMode_eq_some, readBool_eq_some] at read
      obtain ⟨_, rfl, _, rfl, filter, hf, _, exit, _, blanking, _, jam, _, ranks, read⟩ := read
      obtain ⟨exit, exitBytes⟩ := readDistance_eq_some.1 exit
      obtain ⟨-, blankingBytes⟩ := readDistance_eq_some.1 blanking
      obtain ⟨jam, jamBytes⟩ := readDistance_eq_some.1 jam
      obtain ⟨rfl, ranks⟩ := readRanks_eq_some.1 ranks
      obtain rfl := (readFilter_eq_some (x := BitVec.ofFin filter)).1 hf
      split at read <;> cases read
      rename_i rest
      refine ⟨⟨exit, jam, ranks, rest⟩, ?_⟩
      simp only [lineBytes, exitBytes, blankingBytes, jamBytes, be16_read16, List.cons_append, List.nil_append]
    · cases read
  · obtain ⟨mode, invert, filter, exit, blanking, jam, allowance, standstill, ranks, mask⟩ := c
    rintro ⟨⟨exitLow, jamLow, distinct, rest⟩, rfl⟩
    obtain ⟨e3, e2, e1, e0, exitBytes, -⟩ := exists_be32 (exit.setWidth 32)
    obtain ⟨n3, n2, n1, n0, blankingBytes, -⟩ := exists_be32 (blanking.setWidth 32)
    obtain ⟨j3, j2, j1, j0, jamBytes, -⟩ := exists_be32 (jam.setWidth 32)
    obtain ⟨a1, a0, allowanceBytes, rfl⟩ := exists_be16 allowance
    obtain ⟨m1, m0, maskBytes, rfl⟩ := exists_be16 mask
    simp only [lineBytes, exitBytes, blankingBytes, jamBytes, allowanceBytes, maskBytes, List.cons_append, List.nil_append,
      readLineBlock, readEncoderMode_eq_some.2 rfl, readBool_eq_some.2 rfl, readFilter_eq_some.2 rfl,
      readDistance_eq_some.2 ⟨exitLow, exitBytes⟩, readDistance_eq_some.2 ⟨Nat.zero_le _, blankingBytes⟩,
      readDistance_eq_some.2 ⟨jamLow, jamBytes⟩, readRanks_eq_some.2 ⟨rfl, distinct⟩, Option.bind_eq_bind, Option.bind_some]
    exact if_neg rest

/-! ### What offends an exit distance (R173 check 4) -/

theorem mem_recipeOffences {exit : Nat} {i : Fin 8} {r : Recipe} {o : OrderOffence} :
    o ∈ recipeOffences exit i r ↔ r.valid = true ∧
      ((∃ p, r.body.voter.get p = true ∧ exit ≤ (r.body.decision.get p).toNat ∧
          o = ⟨(r.body.decision.get p).toNat, false, i.val⟩) ∨
        ∃ t ∈ r.body.templates, exit ≤ t.fire.toNat ∧ o = ⟨t.fire.toNat, false, i.val⟩) := by
  have all : ∀ p, p ∈ ports3 := by intro p; cases p <;> decide
  unfold recipeOffences
  split
  · rename_i valid
    simp only [List.mem_map, List.mem_filter, List.mem_append, decide_eq_true_eq, all, true_and, valid]
    constructor
    · rintro ⟨x, ⟨⟨p, voter, rfl⟩ | ⟨t, m, rfl⟩, far⟩, rfl⟩
      · exact .inl ⟨p, voter, far, rfl⟩
      · exact .inr ⟨t, m, far, rfl⟩
    · rintro (⟨p, voter, far, rfl⟩ | ⟨t, m, far, rfl⟩)
      · exact ⟨_, ⟨.inl ⟨p, voter, rfl⟩, far⟩, rfl⟩
      · exact ⟨_, ⟨.inr ⟨t, m, rfl⟩, far⟩, rfl⟩
  · rename_i invalid
    simp [invalid]

theorem mem_inputOffences {exit : Nat} {k : Fin 8} {i : Input} {o : OrderOffence} :
    o ∈ inputOffences exit k i ↔ i.role = .checkpoint ∧ exit ≤ missOffset i ∧ o = ⟨missOffset i, true, k.val⟩ := by
  unfold inputOffences
  split
  · rename_i offends
    obtain ⟨role, far⟩ : i.role = .checkpoint ∧ exit ≤ missOffset i := by simpa using offends
    simp [role, far]
  · rename_i fits
    refine ⟨fun m => absurd m List.not_mem_nil, fun ⟨role, far, _⟩ => absurd ?_ fits⟩
    simp [role, far]

/-- The list of offences holds what the claims say offends, and nothing else. -/
theorem mem_orderOffences {s : State} {exit : Nat} {o : OrderOffence} :
    o ∈ s.orderOffences exit ↔ s.Offends exit o.offset o.byInput o.index := by
  simp only [State.orderOffences, List.mem_append, List.mem_flatMap, List.mem_finRange, true_and, mem_recipeOffences,
    mem_inputOffences]
  constructor
  · rintro (⟨i, valid, ⟨p, voter, far, rfl⟩ | ⟨t, m, far, rfl⟩⟩ | ⟨k, role, far, rfl⟩)
    · exact .decision i p valid voter far
    · exact .fire i t valid m far
    · exact .checkpoint k role far
  · obtain ⟨offset, byInput, index⟩ := o
    intro offends
    cases offends with
    | decision i p valid voter far => exact .inl ⟨i, valid, .inl ⟨p, voter, far, rfl⟩⟩
    | fire i t valid m far => exact .inl ⟨i, valid, .inr ⟨t, m, far, rfl⟩⟩
    | checkpoint k role far => exact .inr ⟨k, role, far, rfl⟩

/-! ### The configuration written whole (R14, R174) -/

theorem writeLine_same {s : State} {c : LineConfig} (mode : s.line.encoderMode = c.encoderMode)
    (filter : s.line.encoderFilter = c.encoderFilter) : s.writeLine c = { s with line := c } :=
  (if_pos mode).trans (if_pos filter)

theorem writeLine_mode {s : State} {c : LineConfig} (mode : s.line.encoderMode ≠ c.encoderMode)
    (filter : s.line.encoderFilter = c.encoderFilter) : s.writeLine c = { s with line := c }.loadReference :=
  (if_neg mode).trans (if_pos filter)

theorem writeLine_filter {s : State} {c : LineConfig} (mode : s.line.encoderMode = c.encoderMode)
    (filter : s.line.encoderFilter ≠ c.encoderFilter) :
    s.writeLine c = { s with line := c }.refilterPhases c.encoderFilter :=
  (if_pos mode).trans (if_neg filter)

/-- Both encoder filters under a new setting, and the reference as it is then loaded (R14). -/
theorem writeLine_both {s : State} {c : LineConfig} (mode : s.line.encoderMode ≠ c.encoderMode)
    (filter : s.line.encoderFilter ≠ c.encoderFilter) : ∃ (loadedFirst : Bool) (n : Nat), s.writeLine c =
      { s with
        line := c, free := n
        pos := { s.pos with
          phaseA := s.pos.phaseA.refilter c.encoderFilter, phaseB := s.pos.phaseB.refilter c.encoderFilter
          refA := (if loadedFirst then s.pos.phaseA else s.pos.phaseA.refilter c.encoderFilter).accepted
          refB := (if loadedFirst then s.pos.phaseB else s.pos.phaseB.refilter c.encoderFilter).accepted } } := by
  obtain ⟨n, chosen⟩ := s.choose_eq 2
  refine ⟨s.chooseBool.1, n, ?_⟩
  rw [State.writeLine, if_neg mode, if_neg filter]
  simp only [State.chooseBool, chosen]
  split <;> rfl

theorem configLineBody_of_read {p : Port} {s : State} {params : List Byte} {c : LineConfig}
    (read : readLineBlock params = some c) : configLineBody p s params =
      require s (s.holdsExclusive p resLine) .notLeased (require s s.items.live.isEmpty .notEmpty (
        match (s.orderOffences c.exitDistance.toNat)[(s.choose (s.orderOffences c.exitDistance.toNat).length).1]? with
        | some o => ⟨(s.choose (s.orderOffences c.exitDistance.toNat).length).2, .order, offencePayload o, []⟩
        | none => ⟨s.writeLine c, .ok, linePayload c, []⟩)) := by
  rw [configLineBody, withBlock_of_some read] <;> rfl

/-- CONFIG_LINE of a distance that something offends names one such offence. -/
theorem configLineBody_of_offence {p : Port} {s : State} {c : LineConfig} (inRange : c.InRange)
    (leased : s.holdsExclusive p resLine = true) (empty : s.items.live = [])
    (offended : ∃ o b i, s.Offends c.exitDistance.toNat o b i) : ∃ o b i n, s.Offends c.exitDistance.toNat o b i ∧
      configLineBody p s (lineBytes c) =
        ⟨{ s with free := n }, .order, be24 (BitVec.ofNat 24 o) ++ [if b then 1 else 0, natByte i], []⟩ := by
  rw [configLineBody_of_read (readLineBlock_eq_some.2 ⟨inRange, rfl⟩), require_of_pass leased,
    require_of_pass (List.isEmpty_iff.2 empty)]
  obtain ⟨n, chosen⟩ := s.choose_eq (s.orderOffences c.exitDistance.toNat).length
  obtain ⟨o, b, i, offends⟩ := offended
  have found := mem_orderOffences (o := ⟨o, b, i⟩).2 offends
  cases named : (s.orderOffences c.exitDistance.toNat)[(s.choose (s.orderOffences c.exitDistance.toNat).length).1]? with
  | none => rw [State.choose_none s named] at found; exact absurd found List.not_mem_nil
  | some first =>
    have offends := mem_orderOffences.1 (List.mem_of_getElem? named)
    exact ⟨first.offset, first.byInput, first.index, n, offends, by rw [chosen]; rfl⟩

theorem configLineBody_of_fits {p : Port} {s : State} {c : LineConfig} (inRange : c.InRange)
    (leased : s.holdsExclusive p resLine = true) (empty : s.items.live = [])
    (fits : ¬∃ o b i, s.Offends c.exitDistance.toNat o b i) :
    configLineBody p s (lineBytes c) = ⟨s.writeLine c, .ok, linePayload c, []⟩ := by
  have none : s.orderOffences c.exitDistance.toNat = [] :=
    List.eq_nil_iff_forall_not_mem.2 fun o m => fits ⟨o.offset, o.byInput, o.index, mem_orderOffences.1 m⟩
  rw [configLineBody_of_read (readLineBlock_eq_some.2 ⟨inRange, rfl⟩), require_of_pass leased,
    require_of_pass (List.isEmpty_iff.2 empty), none]
  rfl

theorem linePayload_eq (c : LineConfig) : linePayload c =
    [encoderModeCode c.encoderMode, if c.invert then 1 else 0, c.encoderFilter.setWidth 8] ++
    be24 c.exitDistance ++ be24 c.entryBlanking ++ (0 :: be24 c.jamLength) ++ be16 c.reverseAllowance ++
    [c.standstillTime, c.ranks.a, c.ranks.b, c.ranks.c] ++ be16 c.holdMask := by
  rw [linePayload, be32_offset, flagByte]

/-- Taking a frame leaves the recipes and the inputs, which are all that can offend. -/
theorem offends_taking {s : State} {p : Port} {rest : List Frame} {exit o : Nat} {b : Bool} {i : Nat} :
    (s.taking p rest).Offends exit o b i ↔ s.Offends exit o b i := by
  constructor
  · intro offends
    cases offends with
    | decision i p valid voter far => exact .decision i p valid voter far
    | fire i t valid m far => exact .fire i t valid m far
    | checkpoint k role far => exact .checkpoint k role far
  · intro offends
    cases offends with
    | decision i p valid voter far => exact .decision i p valid voter far
    | fire i t valid m far => exact .fire i t valid m far
    | checkpoint k role far => exact .checkpoint k role far

/-- Settles O18: the checks of R173 in order, and the four cases of R14 by what changes. -/
theorem configLineWritesTheWholeConfiguration : Obligations.ConfigLineWritesTheWholeConfiguration := by
  unfold Obligations.ConfigLineWritesTheWholeConfiguration
  intro s p seq params rest waits attached
  have answer : exec (.configLine p) s = .next ((configLineBody p (s.taking p rest) params).finish p 0x20 seq) :=
    exec_attached waits attached rfl
  dsimp only
  rw [answer]
  refine ⟨fun other => ?_, ?_⟩
  · have unread : ∀ c, readLineBlock params ≠ some c := fun c read => by
      obtain ⟨inRange, laidOut⟩ := readLineBlock_eq_some.1 read
      exact other c inRange laidOut
    rw [configLineBody, withBlock_of_unread unread, finish_refuse]
  rintro c rfl inRange
  have read := readLineBlock_eq_some.2 ⟨inRange, rfl⟩
  rw [← linePayload_eq]
  have leasedIff := (s.taking p rest).holdsExclusive_iff p resLine
  refine ⟨fun unleased => ?_, fun leased occupied => ?_, fun leased empty offended => ?_, fun leased empty fits => ?_⟩
  · rw [configLineBody_of_read read, require_unleased (r := resLine) unleased, finish_refuse]
  · rw [configLineBody_of_read read, require_leased (r := resLine) leased, taking_items,
      require_of_fail (mt List.isEmpty_iff.1 occupied), finish_refuse]
  · have offended : ∃ o b i, (s.taking p rest).Offends c.exitDistance.toNat o b i := by
      simpa only [offends_taking] using offended
    obtain ⟨o, b, i, n, offends, body⟩ := configLineBody_of_offence inRange (leasedIff.2 leased) empty offended
    exact ⟨o, b, i, n, offends_taking.1 offends, by rw [body, Answer.finish_of_no_skipped]⟩
  · have fits : ¬∃ o b i, (s.taking p rest).Offends c.exitDistance.toNat o b i := by
      simpa only [offends_taking] using fits
    rw [configLineBody_of_fits inRange (leasedIff.2 leased) empty fits, Answer.finish_of_no_skipped]
    refine ⟨fun mode filter => ?_, fun mode filter => ?_, fun mode filter => ?_, fun mode filter => ?_⟩
    · rw [writeLine_same (s := s.taking p rest) mode.symm filter.symm]
    · rw [writeLine_mode (s := s.taking p rest) (Ne.symm mode) filter.symm]
      rfl
    · rw [writeLine_filter (s := s.taking p rest) mode.symm (Ne.symm filter)]
      rfl
    · obtain ⟨loadedFirst, n, written⟩ := writeLine_both (s := s.taking p rest) (Ne.symm mode) (Ne.symm filter)
      exact ⟨loadedFirst, n, by rw [written]; rfl⟩

end Sys2Proof.Machine
end

section
/-! PROOFS. CONFIG_INPUT (R21, R27 to R29): its block, its checks, and the first row of R28 that applies. -/
namespace Sys2Proof.Machine

/-! ### The block (R27, spec 12) -/

/-- The bytes of CONFIG_INPUT. -/
def inputBytes (k : Fin 8) (r : Role) (l : ActiveLevel) (f : Byte) (n : Offset) (w : Half) (o : Byte) : List Byte :=
  [natByte k.val, r.code, l.code, f] ++ be24 n ++ be16 w ++ [o]

/-- The ranges of CONFIG_INPUT, which only CHECKPOINT has examined (R27). -/
def InputInRange (r : Role) (n : Offset) (w : Half) (o : Byte) (m : OnMiss) : Prop :=
  r = .checkpoint → n ≠ 0 ∧ w ≠ 0 ∧ o = onMissCode m

/-- What a block within the ranges is read as: the fields that are not examined are stored as 0, 0 and NOTE. -/
def inputBlock (k : Fin 8) (r : Role) (l : ActiveLevel) (f : Byte) (n : Offset) (w : Half) (m : OnMiss) : InputBlock :=
  { input := k, role := r, active := l, filter := f, nominal := if r = .checkpoint then n else 0
    window := if r = .checkpoint then w else 0, onMiss := if r = .checkpoint then m else .note }

theorem readInputBlock_inputBytes {r : Role} {n : Offset} {w : Half} {o : Byte} {m : OnMiss}
    (inRange : InputInRange r n w o m) (k : Fin 8) (l : ActiveLevel) (f : Byte) :
    readInputBlock (inputBytes k r l f n w o) = some (inputBlock k r l f n w m) := by
  obtain ⟨n2, n1, n0, nBytes, rfl⟩ := exists_be24 n
  obtain ⟨w1, w0, wBytes, rfl⟩ := exists_be16 w
  simp only [inputBytes, nBytes, wBytes, List.cons_append, List.nil_append, readInputBlock, inputBlock,
    (readIndex_eq_some (show 8 ≤ 256 by decide)).2 rfl, readRole_eq_some.2 rfl, readActiveLevel_eq_some.2 rfl,
    Option.bind_eq_bind, Option.bind_some]
  by_cases check : r = .checkpoint
  · obtain ⟨nominal, window, code⟩ := inRange check
    simp only [if_pos check, readOnMiss_eq_some.2 code, Option.bind_some, if_neg (not_or.2 ⟨nominal, window⟩)]
  · simp only [if_neg check]

theorem inputBytes_of_read {params : List Byte} {b : InputBlock} (read : readInputBlock params = some b) :
    ∃ k r l f n w o m, InputInRange r n w o m ∧ params = inputBytes k r l f n w o := by
  unfold readInputBlock at read
  split at read
  · rename_i k r l f n2 n1 n0 w1 w0 o
    simp only [Option.bind_eq_bind, Option.bind_eq_some_iff, readIndex_eq_some (show 8 ≤ 256 by decide), readRole_eq_some,
      readActiveLevel_eq_some] at read
    obtain ⟨k, rfl, r, rfl, l, rfl, read⟩ := read
    have laidOut : [natByte k.val, r.code, l.code, f, n2, n1, n0, w1, w0, o] =
        inputBytes k r l f (read24 n2 n1 n0) (read16 w1 w0) o := by
      simp [inputBytes]
    split at read
    · simp only [Option.bind_eq_some_iff, readOnMiss_eq_some] at read
      obtain ⟨m, code, read⟩ := read
      split at read
      · cases read
      · rename_i nonzero
        obtain ⟨nominal, window⟩ := not_or.1 nonzero
        exact ⟨k, r, l, f, _, _, o, m, fun _ => ⟨nominal, window, code⟩, laidOut⟩
    · rename_i other
      exact ⟨k, r, l, f, _, _, o, .note, fun check => absurd check other, laidOut⟩
  · cases read

/-! ### Loads (R21, R29) -/

theorem updInput_self {s : State} {k : Fin 8} {f : Input → Input} (same : f (s.input k) = s.input k) :
    s.updInput k f = s := by
  rw [State.updInput, same, State.input, Vector.get_eq_getElem]
  simp only [Vector.set_getElem_self]

theorem mem_of_comingLevel {s : State} {k : Fin 8} {level : Bool} (coming : s.comingLevel k = some level) :
    Instr.rawTransition k level ∈ s.pending := by
  obtain ⟨c, waits, names⟩ := List.exists_of_findSome?_eq_some coming
  split at names
  · rename_i j x
    split at names
    · rename_i same
      cases names
      exact same ▸ waits
    · cases names
  · cases names

/-- The pin that a load finds: as it stands, or, of a raw transition that waits, as it comes to stand (log 37). -/
theorem findPin_found (s : State) (k : Fin 8) : ∃ pin n,
    s.findPin k = { s with free := n }.updInput k (fun i => { i with pin := pin }) ∧
    (pin ≠ (s.input k).pin → Instr.rawTransition k pin ∈ s.pending) ∧
    ((∀ x, Instr.rawTransition k x ∉ s.pending) → n = s.free) := by
  have stays : ∀ n, { s with free := n }.updInput k (fun i => { i with pin := (s.input k).pin }) = { s with free := n } :=
    fun n => updInput_self rfl
  unfold State.findPin
  cases coming : s.comingLevel k with
  | none => exact ⟨(s.input k).pin, s.free, (stays s.free).symm, fun h => absurd rfl h, fun _ => rfl⟩
  | some level =>
    have waits := mem_of_comingLevel coming
    obtain ⟨n, chosen⟩ := s.choose_eq 2
    simp only [State.chooseBool, chosen]
    split
    · exact ⟨level, n, rfl, fun _ => waits, fun none => absurd waits (none level)⟩
    · exact ⟨(s.input k).pin, n, (stays n).symm, fun h => absurd rfl h, fun none => absurd waits (none level)⟩

/-- The level that a load finds: that of the pin, or, where a leading edge of a MARK input meets the command, ACTIVE
(log 36). -/
theorem loadInput_found (s : State) (k : Fin 8) (old : Input) : ∃ level n,
    s.loadInput k old = { s with free := n }.updInput k (fun i =>
      { i with accepted := level, measurement := none, suppress := level }) ∧
    (level ≠ (s.input k).level → (s.input k).active ≠ old.active ∧ old.leadingMeets (s.input k).pin = true) ∧
    (¬((s.input k).active ≠ old.active ∧ old.leadingMeets (s.input k).pin = true) → n = s.free) := by
  unfold State.loadInput
  dsimp only
  split
  · rename_i meets
    obtain ⟨n, chosen⟩ := s.choose_eq 2
    simp only [State.chooseBool, chosen]
    split
    · exact ⟨true, n, rfl, fun _ => meets, fun none => absurd meets none⟩
    · exact ⟨(s.input k).level, n, rfl, fun h => absurd rfl h, fun none => absurd meets none⟩
  · exact ⟨(s.input k).level, s.free, rfl, fun h => absurd rfl h, fun _ => rfl⟩

/-- A leading edge meets a command that changes the active level, in the words of the claims. -/
theorem leadingMeets_iff {old : Input} {l : ActiveLevel} (pin : Bool) :
    l ≠ old.active ∧ old.leadingMeets pin = true ↔
      old.role = .mark ∧ old.suppress = false ∧ l ≠ old.active ∧ (if l = .high then pin else !pin) = false ∧
        (pin = old.pin ∨ old.filter = 0 ∧ old.accepted = false) := by
  have opposite : l ≠ old.active → (activeAt old.active pin = true ↔ (if l = .high then pin else !pin) = false) := by
    intro changed
    rw [← activeAt_eq_ite]
    cases l <;> cases active : old.active <;> simp_all [activeAt]
  constructor
  · rintro ⟨changed, meets⟩
    simp only [Input.leadingMeets, Bool.and_eq_true, Bool.or_eq_true, decide_eq_true_eq, Bool.not_eq_true'] at meets
    obtain ⟨⟨⟨role, clear⟩, active⟩, edge⟩ := meets
    exact ⟨role, clear, changed, (opposite changed).1 active, edge⟩
  · rintro ⟨role, clear, changed, found, edge⟩
    refine ⟨changed, ?_⟩
    simp only [Input.leadingMeets, Bool.and_eq_true, Bool.or_eq_true, decide_eq_true_eq, Bool.not_eq_true']
    exact ⟨⟨⟨role, clear⟩, (opposite changed).2 found⟩, edge⟩

/-! ### The rows of R28 -/

/-- The row of R28 that a load takes: what it finds, and what log 36 and log 37 leave open. -/
theorem load_found (t : State) (k : Fin 8) (old configured : Input) (input : t.input k = configured)
    (pins : configured.pin = old.pin) : ∃ (pin level : Bool) (free : Nat),
    let found := if configured.active = .high then pin else !pin
    let open_ := old.role = .mark ∧ old.suppress = false ∧ configured.active ≠ old.active ∧ found = false ∧
      (pin = old.pin ∨ old.filter = 0 ∧ old.accepted = false)
    (pin ≠ old.pin → Instr.rawTransition k pin ∈ t.pending) ∧ (level ≠ found → open_) ∧
      ((∀ x, Instr.rawTransition k x ∉ t.pending) → ¬open_ → free = t.free) ∧
      (t.findPin k).loadInput k old = { t with free := free }.updInput k (fun _ =>
        { configured with pin := pin, accepted := level, measurement := none, suppress := level }) := by
  obtain ⟨pin, n, found, waits, pinFixed⟩ := findPin_found t k
  obtain ⟨level, free, loaded, levelOpen, levelFixed⟩ := loadInput_found (t.findPin k) k old
  rw [input, pins] at waits
  have seen : (t.findPin k).input k = { configured with pin := pin } := by
    rw [found, State.input_updInput, if_pos rfl]
    exact congrArg (fun i : Input => { i with pin := pin }) input
  simp only [seen, Input.level, activeAt_eq_ite] at levelOpen levelFixed
  rw [leadingMeets_iff] at levelOpen levelFixed
  refine ⟨pin, level, free, waits, levelOpen, fun none shut => ?_, ?_⟩
  · rw [levelFixed shut, found, State.updInput_free, pinFixed none]
  · rw [loaded, found]
    show ({ t with free := free }.updInput k fun i => { i with pin := pin }).updInput k _ = _
    rw [State.updInput_updInput, ← input]
    rfl

theorem updInput_free_updInput (t : State) (k : Fin 8) (c : Input) (free : Nat) (g : Input → Input) :
    { t.updInput k (fun _ => c) with free := free }.updInput k g = { t with free := free }.updInput k fun _ => g c :=
  State.updInput_updInput { t with free := free } k (fun _ => c) g

/-- The branch of R28 for an input that stays OFF. -/
theorem rerunInput_off {s : State} {k : Fin 8} {old : Input} (off : (s.input k).role = .off) (was : old.role = .off) :
    s.rerunInput k old = s :=
  (if_pos off).trans (if_pos was)

theorem rerunInput_turnOff {s : State} {k : Fin 8} {old : Input} (off : (s.input k).role = .off) (was : old.role ≠ .off) :
    s.rerunInput k old = s.updInput k Input.turnOff :=
  (if_pos off).trans (if_neg was)

theorem rerunInput_load {s : State} {k : Fin 8} {old : Input} (on : (s.input k).role ≠ .off)
    (changed : (s.input k).role ≠ old.role ∨ (s.input k).active ≠ old.active) :
    s.rerunInput k old = (s.findPin k).loadInput k old :=
  (if_neg on).trans (if_pos changed)

theorem rerunInput_same {s : State} {k : Fin 8} {old : Input} (on : (s.input k).role ≠ .off)
    (same : ¬((s.input k).role ≠ old.role ∨ (s.input k).active ≠ old.active))
    (filter : (s.input k).filter = old.filter) : s.rerunInput k old = s :=
  (if_neg on).trans ((if_neg same).trans (if_pos filter))

/-- A new filter over a measurement restarts it, and at 0 takes its edge at once (R28). -/
theorem rerunInput_filter {s : State} {k : Fin 8} {old : Input} (on : (s.input k).role ≠ .off)
    (same : ¬((s.input k).role ≠ old.role ∨ (s.input k).active ≠ old.active))
    (filter : (s.input k).filter ≠ old.filter) : s.rerunInput k old =
      match (s.input k).measurement with
      | none => s
      | some m =>
        if (s.input k).filter = 0 then s.takeEdge k m.captured
        else s.updInput k (fun x => { x with measurement := some ⟨m.captured, (s.input k).filter⟩ }) :=
  (if_neg on).trans ((if_neg same).trans (if_neg filter))

theorem rerunInput_filter_idle {s : State} {k : Fin 8} {old : Input} (on : (s.input k).role ≠ .off)
    (same : ¬((s.input k).role ≠ old.role ∨ (s.input k).active ≠ old.active))
    (filter : (s.input k).filter ≠ old.filter) (idle : (s.input k).measurement = none) : s.rerunInput k old = s := by
  rw [rerunInput_filter on same filter, idle]

theorem rerunInput_filter_restart {s : State} {k : Fin 8} {old : Input} {m : Measurement} (on : (s.input k).role ≠ .off)
    (same : ¬((s.input k).role ≠ old.role ∨ (s.input k).active ≠ old.active))
    (filter : (s.input k).filter ≠ old.filter) (measures : (s.input k).measurement = some m) (runs : (s.input k).filter ≠ 0) :
    s.rerunInput k old = s.updInput k (fun x => { x with measurement := some ⟨m.captured, (s.input k).filter⟩ }) := by
  rw [rerunInput_filter on same filter, measures]
  exact if_neg runs

theorem rerunInput_filter_zero {s : State} {k : Fin 8} {old : Input} {m : Measurement} (on : (s.input k).role ≠ .off)
    (same : ¬((s.input k).role ≠ old.role ∨ (s.input k).active ≠ old.active))
    (filter : (s.input k).filter ≠ old.filter) (measures : (s.input k).measurement = some m) (zero : (s.input k).filter = 0) :
    s.rerunInput k old = s.takeEdge k m.captured := by
  rw [rerunInput_filter on same filter, measures]
  exact if_pos zero

/-- The writing of an input configuration, as the rows of R28 take it up. -/
theorem writeInput_eq (s : State) (k : Fin 8) (r : Role) (l : ActiveLevel) (f : Byte) (n : Offset) (w : Half) (m : OnMiss) :
    s.writeInput (inputBlock k r l f n w m) =
      (s.updInput k fun _ => (s.input k).configure (inputBlock k r l f n w m)).rerunInput k (s.input k) := rfl

/-! ### The checks of R27 -/

theorem configInputBody_of_block {p : Port} {s : State} {r : Role} {n : Offset} {w : Half} {o : Byte} {m : OnMiss}
    (inRange : InputInRange r n w o m) (k : Fin 8) (l : ActiveLevel) (f : Byte) :
    configInputBody p s (inputBytes k r l f n w o) =
      require s (s.holdsExclusive p (resInput k)) .notLeased (
      require s (!(r = .entry && s.entryElsewhere k)) .entryTaken (
      require s (s.items.live.isEmpty || !(tableRole (s.input k).role || tableRole r)) .notEmpty (
      require s (r ≠ .checkpoint || (inputBlock k r l f n w m).nominal.toNat + (inputBlock k r l f n w m).window.toNat <
        s.line.exitDistance.toNat) .order
        ⟨s.writeInput (inputBlock k r l f n w m), .ok,
          [natByte k.val, Config.levelCode ((s.writeInput (inputBlock k r l f n w m)).input k).accepted], []⟩))) := by
  rw [configInputBody, withBlock_of_some (readInputBlock_inputBytes inRange k l f)]
  rfl

theorem tableRole_iff (r : Role) : tableRole r = true ↔ r = .entry ∨ r = .checkpoint := by
  simp [tableRole]

/-- Check 3 of R27 passes. -/
theorem entryFree_iff (s : State) (k : Fin 8) (r : Role) : (!(r = .entry && s.entryElsewhere k)) = true ↔
    ¬(r = .entry ∧ ∃ j, j ≠ k ∧ (s.input j).role = .entry) := by
  rw [Bool.not_eq_true', ← Bool.not_eq_true, Bool.and_eq_true, decide_eq_true_iff, State.entryElsewhere_iff]

/-- Check 4 of R27 passes. -/
theorem tableFree_iff (s : State) (k : Fin 8) (r : Role) :
    (s.items.live.isEmpty || !(tableRole (s.input k).role || tableRole r)) = true ↔
      ¬(s.items.live ≠ [] ∧ ((s.input k).role = .entry ∨ (s.input k).role = .checkpoint ∨ r = .entry ∨ r = .checkpoint)) := by
  rw [Bool.or_eq_true, List.isEmpty_iff, Bool.not_eq_true', ← Bool.not_eq_true, Bool.or_eq_true, tableRole_iff, tableRole_iff]
  tauto

/-- Check 5 of R27 passes. -/
theorem withinLine_iff (s : State) (k : Fin 8) (r : Role) (l : ActiveLevel) (f : Byte) (n : Offset) (w : Half) (m : OnMiss) :
    (r ≠ .checkpoint || (inputBlock k r l f n w m).nominal.toNat + (inputBlock k r l f n w m).window.toNat <
      s.line.exitDistance.toNat) = true ↔
      ¬(r = .checkpoint ∧ s.line.exitDistance.toNat ≤ n.toNat + w.toNat) := by
  rw [Bool.or_eq_true, decide_eq_true_iff, decide_eq_true_iff, not_and, not_le]
  by_cases check : r = .checkpoint
  · simp [inputBlock, check]
  · simp [inputBlock, check]

/-- Settles O19: the checks of R27 in order, then the first row of R28 that applies. -/
theorem configInputWritesTheInput : Obligations.ConfigInputWritesTheInput := by
  unfold Obligations.ConfigInputWritesTheInput
  intro s p seq params rest waits attached
  have answer : exec (.configInput p) s = .next ((configInputBody p (s.taking p rest) params).finish p 0x21 seq) :=
    exec_attached waits attached rfl
  dsimp only
  rw [answer]
  refine ⟨fun other => ?_, ?_⟩
  · have unread : ∀ b, readInputBlock params ≠ some b := fun b read => by
      obtain ⟨k, r, l, f, n, w, o, m, inRange, laidOut⟩ := inputBytes_of_read read
      exact other k r l f n w o m inRange laidOut
    rw [configInputBody, withBlock_of_unread unread, finish_refuse]
  rintro k r l f n w o m rfl inRange
  have body := configInputBody_of_block (p := p) (s := s.taking p rest) inRange k l f
  rw [inputBytes] at body
  rw [body]
  have leasedIff := (s.taking p rest).holdsExclusive_iff p (resInput k)
  have freeIff := entryFree_iff (s.taking p rest) k r
  have tableIff := tableFree_iff (s.taking p rest) k r
  have withinIff := withinLine_iff (s.taking p rest) k r l f n w m
  refine ⟨fun unleased => ?_, fun leased taken => ?_, fun leased free occupied => ?_, fun leased free empty far => ?_,
    fun leased free empty within => ?_⟩
  · rw [require_of_fail (mt leasedIff.1 unleased), finish_refuse]
  · rw [require_of_pass (leasedIff.2 leased), require_of_fail (mt freeIff.1 (not_not.2 taken)), finish_refuse]
  · rw [require_of_pass (leasedIff.2 leased), require_of_pass (freeIff.2 free),
      require_of_fail (mt tableIff.1 (not_not.2 occupied)), finish_refuse]
  · rw [require_of_pass (leasedIff.2 leased), require_of_pass (freeIff.2 free), require_of_pass (tableIff.2 empty),
      require_of_fail (mt withinIff.1 (not_not.2 far)), finish_refuse]
  · rw [require_of_pass (leasedIff.2 leased), require_of_pass (freeIff.2 free), require_of_pass (tableIff.2 empty),
      require_of_pass (withinIff.2 within), Answer.finish_of_no_skipped]
    have was : (s.taking p rest).input k = s.input k := rfl
    have written := writeInput_eq (s.taking p rest) k r l f n w m
    obtain ⟨c, hc⟩ : ∃ c, c = (s.input k).configure (inputBlock k r l f n w m) := ⟨_, rfl⟩
    have seen : ((s.taking p rest).updInput k fun _ => c).input k = c := by rw [State.input_updInput, if_pos rfl]
    have role : c.role = r := by rw [hc]; rfl
    have active : c.active = l := by rw [hc]; rfl
    have filter : c.filter = f := by rw [hc]; rfl
    have measurement : c.measurement = (s.input k).measurement := by rw [hc]; rfl
    rw [was, ← hc] at written
    rw [written]
    refine ⟨fun off wasOff => ?_, fun off wasOn => ?_, fun ⟨on, changed⟩ => ?_, fun on kept restart => ?_,
      fun ⟨on, sameRole, sameActive, changed⟩ idle => ?_, fun ⟨on, sameRole, sameActive, changed⟩ zero x measures => ?_⟩
    · rw [rerunInput_off (by rw [seen, role, off]) wasOff, hc]
      rfl
    · rw [rerunInput_turnOff (by rw [seen, role, off]) wasOn, State.updInput_updInput, hc]
      rfl
    · rw [rerunInput_load (by rw [seen, role]; exact on) (by rw [seen, role, active]; exact changed)]
      obtain ⟨pin, level, free, waits, found, fixed, loaded⟩ :=
        load_found ((s.taking p rest).updInput k fun _ => c) k (s.input k) c seen (by rw [hc]; rfl)
      rw [active] at found fixed
      refine ⟨pin, level, free, waits, found, fixed, ?_⟩
      rw [loaded, updInput_free_updInput, hc]
      rfl
    · have same : ¬(r ≠ (s.input k).role ∨ l ≠ (s.input k).active) := fun changed => kept ⟨on, changed⟩
      obtain ⟨sameRole, sameActive⟩ := not_or.1 same
      rw [rerunInput_same (by rw [seen, role]; exact on) (by rw [seen, role, active]; exact same)
        (by rw [seen, filter]; exact not_not.1 fun changed => restart ⟨on, not_not.1 sameRole, not_not.1 sameActive, changed⟩), hc]
      rfl
    · have same : ¬(r ≠ (s.input k).role ∨ l ≠ (s.input k).active) := not_or.2 ⟨not_not.2 sameRole, not_not.2 sameActive⟩
      cases measures : (s.input k).measurement with
      | none =>
        have plain : { c with measurement := none } = c := by
          rw [← measures, ← measurement]
        rw [rerunInput_filter_idle (by rw [seen, role]; exact on) (by rw [seen, role, active]; exact same)
          (by rw [seen, filter]; exact changed) (by rw [seen, measurement, measures]), ← plain, hc]
        rfl
      | some x =>
        have runs : f ≠ 0 := idle.resolve_right fun none => by rw [measures] at none; cases none
        rw [rerunInput_filter_restart (by rw [seen, role]; exact on) (by rw [seen, role, active]; exact same)
          (by rw [seen, filter]; exact changed) (by rw [seen, measurement, measures]) (by rw [seen, filter]; exact runs),
          State.updInput_updInput, seen, filter, hc]
        rfl
    · have same : ¬(r ≠ (s.input k).role ∨ l ≠ (s.input k).active) := not_or.2 ⟨not_not.2 sameRole, not_not.2 sameActive⟩
      refine ⟨_, State.takeEdge_taken _ k x.captured, ?_⟩
      rw [rerunInput_filter_zero (by rw [seen, role]; exact on) (by rw [seen, role, active]; exact same)
        (by rw [seen, filter]; exact changed) (by rw [seen, measurement, measures]) (by rw [seen, filter]; exact zero), hc]
      rfl

end Sys2Proof.Machine
end

section
/-! PROOFS. RESET_DEVICE (R194). -/
namespace Sys2Proof.Machine

/-! ### The blocks after a device reset -/

theorem Input.deviceReset_eq (i : Input) : i.deviceReset =
    if i.role = .off then i
    else
      let level := if i.active = .high then i.pin else !i.pin
      { i with accepted := level, measurement := none, suppress := level } := by
  simp only [Input.deviceReset, Input.load, Input.level, activeAt_eq_ite]

/-- What a device reset leaves of an encoder phase, whichever way the open choice of log 13 falls. -/
theorem State.resetPhase_phase (s : State) (x : Phase) :
    (s.resetPhase x).1.raw = x.raw ∧ (s.resetPhase x).1.accepted = x.accepted ∧
      (x.raw = x.accepted → (s.resetPhase x).1.measuring = none) ∧
      (x.raw ≠ x.accepted → (s.resetPhase x).1.measuring = none ∨ (s.resetPhase x).1.measuring = some s.line.encoderFilter) := by
  unfold State.resetPhase
  split
  next same => exact ⟨rfl, rfl, fun _ => rfl, fun differ => absurd same differ⟩
  next differ =>
    dsimp only
    split
    · exact ⟨rfl, rfl, fun same => absurd same differ, fun _ => .inr rfl⟩
    · exact ⟨rfl, rfl, fun same => absurd same differ, fun _ => .inl rfl⟩

theorem State.resetPosition_phases (s : State) :
    s.resetPosition.pos.phaseA = (s.resetPhase s.pos.phaseA).1 ∧
      ∃ free, s.resetPosition.pos.phaseB = ({ s with free := free }.resetPhase s.pos.phaseB).1 := by
  obtain ⟨free, first⟩ := s.resetPhase_free s.pos.phaseA
  exact ⟨rfl, free, first ▸ rfl⟩

/-- The status byte of the reply in the emptied slot (R182): unread, in a detached port with no notice, under the hold cause
RESET. -/
theorem deviceReset_status (s : State) (p : Port) (code seq : Byte) (result : Result) (payload : List Byte) :
    (((s.deviceReset p).placeReply p code seq result payload).port p).slot.map Reply.status = some 0x24 := by
  rw [State.placeReply, State.port_updPort, if_pos rfl, State.deviceReset_port]
  rfl

/-- Settles O25: `State.deviceReset_eq` block by block, the two phases under log 13's choice, and the ports. -/
theorem resetDeviceResetsEveryBlock : Obligations.ResetDeviceResetsEveryBlock := by
  unfold Obligations.ResetDeviceResetsEveryBlock
  intro s p seq rest waits attached leased
  obtain ⟨phaseA, free, phaseB⟩ := (s.taking p rest).resetPosition_phases
  refine ⟨(s.taking p rest).deviceReset p, ?_, deviceReset_status _ p .., ?_, ?_, fun q => ?_⟩
  · have answer : exec (.resetDevice p) s = .next ((resetDeviceBody p (s.taking p rest) []).finish p 0x7F seq) :=
      exec_attached waits attached rfl
    rw [answer, resetDeviceBody, withBlock_of_some (show readNothing [] = some () from rfl), require_leased (r := resLine) leased,
      Answer.finish_of_no_skipped]
  · refine ((s.taking p rest).deviceReset_eq p).trans ?_
    rw [funext Input.deviceReset_eq]
    rfl
  · rintro x y (same | same)
    · cases same
      exact phaseA ▸ State.resetPhase_phase _ _
    · cases same
      exact phaseB ▸ State.resetPhase_phase _ _
  · by_cases own : q = p
    · subst own
      rw [State.deviceReset_port, State.taking_port_self, PortState.deviceReset, decide_eq_true rfl, if_pos rfl, if_pos rfl]
      simp
    · rw [State.deviceReset_port, State.taking, State.port_setPort, if_neg own, PortState.deviceReset, decide_eq_false (Ne.symm own), if_neg own,
        if_neg own, Transaction.cut.eq_def]
      rfl

end Sys2Proof.Machine
end

section
/-! PROOFS. PURGE_LINE (R51). -/
namespace Sys2Proof.Machine

/-! ### What the purge of a list of items leaves -/

namespace State

theorem purgeItem_handles (s : State) (it : Item) : ∀ h ∈ it.actions, (s.purgeItem it).action? h = none := by
  intro h listed
  refine Option.eq_none_iff_forall_ne_some.2 fun a named => ?_
  have before := (Ends.removeRecord (s.cutActions it.actions) it.number .purged).action_eq named
  exact Option.some_ne_none _ ((CutEach.action (cutActions_cut it.actions s) before).2 listed)

theorem purgeItem_number (s : State) (it : Item) : it.number ∉ (s.purgeItem it).items.live.map Item.number := by
  intro listed
  obtain ⟨y, live, number⟩ := List.mem_map.1 listed
  have gone := removeRecord_item (s := s.cutActions it.actions) (n := it.number) .purged
  exact List.find?_eq_none.1 gone y live (decide_eq_true number)

theorem purged_handles (xs : List Item) (s : State) :
    ∀ it ∈ xs, ∀ h ∈ it.actions, (xs.foldl purgeItem s).action? h = none := by
  induction xs generalizing s with
  | nil => intro it none; cases none
  | cons x xs ih =>
    intro it here h listed
    obtain rfl | later := List.mem_cons.1 here
    · exact (Ends.foldl _ Ends.purgeItem xs _).action_none (s.purgeItem_handles it h listed)
    · exact ih (s.purgeItem x) it later h listed

theorem purged_numbers (xs : List Item) (s : State) :
    ∀ it ∈ xs, it.number ∉ (xs.foldl purgeItem s).items.live.map Item.number := by
  induction xs generalizing s with
  | nil => intro it none; cases none
  | cons x xs ih =>
    intro it here
    obtain rfl | later := List.mem_cons.1 here
    · exact fun listed => s.purgeItem_number it ((Ends.foldl _ Ends.purgeItem xs _).numbers.subset listed)
    · exact ih (s.purgeItem x) it later

theorem item_of_distinct {s : State} (distinct : (s.items.live.map Item.number).Nodup) {it : Item} (live : it ∈ s.items.live) :
    s.item? it.number = some it := by
  cases found : s.item? it.number with
  | none => simpa using List.find?_eq_none.1 found it live
  | some x => rw [List.inj_on_of_nodup_map distinct (mem_of_item found) live (number_of_item found)]

/-- With every live item purged, none is left, distinct numbers or not. -/
theorem purged_live (s : State) : (s.items.live.foldl purgeItem s).items.live = [] := by
  refine List.eq_nil_iff_forall_not_mem.2 fun y live => ?_
  have listed := List.mem_map_of_mem (f := Item.number) live
  obtain ⟨it, here, number⟩ := List.mem_map.1 ((Ends.foldl _ Ends.purgeItem _ s).numbers.subset listed)
  exact purged_numbers s.items.live s it here (number ▸ listed)

/-- The whole state after the purge (R51). -/
theorem purge_eq (s : State) : s.purge = { s with
    items := { s.items with live := [], trailing := s.items.trailing.purge }
    recipes := { s.recipes with store := s.purge.recipes.store }
    actions := s.purge.actions, channels := s.purge.channels, ports := s.purge.ports } := by
  have ends : s.Ends (s.items.live.foldl purgeItem s) := Ends.foldl _ Ends.purgeItem _ s
  have recipes : (s.items.live.foldl purgeItem s).recipes =
      { s.recipes with store := (s.items.live.foldl purgeItem s).recipes.store } := by
    dsimp only
    rw [← ends.current, ← ends.stage]
  have items : (s.items.live.foldl purgeItem s).items = { s.items with live := [] } := by
    dsimp only
    rw [← s.purged_live, ← ends.nextNumber, ← ends.trailing, ← ends.entryLost, ← ends.reEntry]
  unfold purge
  rw [State.mk.injEq]
  exact ⟨ends.rstn, ends.pos, ends.line, ends.inputs, by rw [items], recipes, rfl, rfl, ends.hold, ends.leases, rfl, ends.free,
    ends.pending⟩

end State

/-- Settles O45: the endings of the purge (`Ends.purgeItem`) name what stays, `State.purged_live` and
`State.purged_handles` what goes, and `State.purge_inTurn` the order. -/
theorem purgeLineEmptiesTheTable : Obligations.PurgeLineEmptiesTheTable := by
  unfold Obligations.PurgeLineEmptiesTheTable
  intro s p seq rest waits attached leased
  have answer : exec (.purgeLine p) s = .next ((purgeLineBody p (s.taking p rest) []).finish p 0x63 seq) :=
    exec_attached waits attached rfl
  have ends : (s.taking p rest).Ends (s.items.live.foldl State.purgeItem (s.taking p rest)) :=
    State.Ends.foldl _ State.Ends.purgeItem _ _
  have live := (s.taking p rest).purged_live
  refine ⟨(s.taking p rest).purge, ?_, (s.taking p rest).purge_eq.trans ?_,
    fun sound => ⟨_, State.purge_inTurn _ _ sound.distinct fun it live => ?_, rfl⟩, fun it here h listed a named => ?_,
    fun h a named => State.names_iff.2 (ends.action_eq (State.names_iff.1 named)), ends.recipe, fun sound i => ?_, fun c => ?_,
    fun q => (ends.ports q).onlyNotices⟩
  · rw [answer, purgeLineBody, withBlock_of_some (show readNothing [] = some () from rfl),
      require_leased (r := resLine) leased, Answer.finish_of_no_skipped, taking_items]
  · rw [taking_items, Trailing.purge.eq_def]
    rfl
  · exact ⟨it, State.item_of_distinct (s := s.taking p rest) sound.distinct live, .refl it⟩
  · exact Option.some_ne_none _ ((State.names_iff.1 named).symm.trans (State.purged_handles s.items.live (s.taking p rest) it here h listed))
  · have counts := (ends.items ⟨sound.atMost, sound.distinct, sound.nonzero, sound.next, sound.refCounts⟩).refCounts i
    exact counts.trans (live ▸ rfl)
  · obtain ⟨polarity, minGap, policy, span⟩ := (ends.channels c).config
    exact ⟨polarity, minGap, policy, span, (ends.channels c).fireCount⟩

end Sys2Proof.Machine
end

section
/-! PROOFS. What the work of a count never undoes: the position stays, no watched point opens again, no action becomes AHEAD
again and none is bound, and no point of the Stage Queue comes up. -/
namespace Sys2Proof.Machine

/-! ### What stays done -/

/-- The item still waits for a point of this kind: it is ENTERING, its slot is OPEN, the input has left no mark, it is not
LEAVING. -/
def Item.Awaits (it : Item) : ItemPoint → Prop
  | .jam => it.state = .entering
  | .decision p => ∃ pending, it.slots.get p = .opened pending
  | .missEnd k => ∀ m ∈ it.marks, m.input ≠ k
  | .exit => it.state ≠ .leaving

/-- A live item of this number still waits for the point. -/
def State.Awaits (s : State) (n : Half) (w : ItemPoint) : Prop := ∃ it ∈ s.items.live, it.number = n ∧ it.Awaits w

/-- The head of the Stage Queue stands at LP. -/
def State.HeadDue (s : State) : Prop := ∃ i rest, s.recipes.stage = ⟨i, .atPosition s.pos.lp⟩ :: rest

theorem State.Watches.awaits {s : State} {it : Item} {offset : Nat} {x : Position} {w : ItemPoint} (watches : s.Watches it offset x w) :
    it.Awaits w := by
  cases watches with
  | jam entering => exact entering
  | decision p pending opened => exact ⟨pending, opened⟩
  | missEnd k role unmarked => exact unmarked
  | exit head stays => exact stays

/-- What one of the operations of a count leaves as it is, or undoes at most once. -/
structure State.Acts (s t : State) : Prop where
  pos : t.pos = s.pos
  awaits : ∀ n w, t.Awaits n w → s.Awaits n w
  actions : ∀ h b, t.action? h = some b → ∃ a, s.action? h = some a ∧ b.channel = a.channel ∧ (b.state = .ahead → a.state = .ahead)
  stage : t.HeadDue → s.HeadDue

namespace State

theorem Acts.refl (s : State) : s.Acts s := ⟨rfl, fun _ _ => id, fun _ b named => ⟨b, named, rfl, id⟩, id⟩

theorem Acts.trans {s t u : State} (first : s.Acts t) (next : t.Acts u) : s.Acts u where
  pos := next.pos.trans first.pos
  awaits n w := first.awaits n w ∘ next.awaits n w
  actions h c named := by
    obtain ⟨b, named, channel, ahead⟩ := next.actions h c named
    obtain ⟨a, named, channel', ahead'⟩ := first.actions h b named
    exact ⟨a, named, channel.trans channel', ahead' ∘ ahead⟩
  stage := first.stage ∘ next.stage

theorem Acts.foldl {α : Type} (f : State → α → State) (step : ∀ (s : State) (x : α), s.Acts (f s x)) (xs : List α) (s : State) :
    s.Acts (xs.foldl f s) :=
  foldl_related Acts Acts.refl (fun _ _ _ => Acts.trans) f step xs s

/-! ### The updates -/

theorem Acts.of_same {s t : State} (pos : t.pos = s.pos) (items : t.items = s.items) (pool : t.actions.pool = s.actions.pool)
    (stage : t.recipes.stage = s.recipes.stage) : s.Acts t where
  pos := pos
  awaits n w := by unfold Awaits; rw [items]; exact id
  actions h b named := by
    have same : t.action? h = s.action? h := action_congr (by unfold entry; rw [pool])
    exact ⟨b, same ▸ named, rfl, id⟩
  stage := by unfold HeadDue; rw [stage, pos]; exact id

theorem Acts.of_updItem (s : State) (n : Half) (f : Item → Item) (number : ∀ x, (f x).number = x.number)
    (awaits : ∀ x ∈ s.items.live, x.number = n → ∀ w, (f x).Awaits w → s.Awaits n w) : s.Acts (s.updItem n f) where
  pos := rfl
  awaits m w := by
    rintro ⟨y, after, rfl, open_⟩
    obtain ⟨x, live, rfl⟩ := mem_updItem_live after
    by_cases own : x.number = n
    · rw [if_pos own] at open_ ⊢
      rw [number, own]
      exact awaits x live own w open_
    · rw [if_neg own] at open_ ⊢
      exact ⟨x, live, rfl, open_⟩
  actions h b named := ⟨b, by simpa using named, rfl, id⟩
  stage := id

theorem updAction_entry (s : State) (h : Handle) (f : Action → Action) (i : Fin 256) :
    (s.updAction h f).entry i = s.entry i ∨
      (s.updAction h f).entry i = ⟨(s.entry i).generation, (s.entry i).action.map f⟩ := by
  unfold updAction
  dsimp only
  split
  · rw [entry_setEntry]
    split
    · subst_vars; exact .inr rfl
    · exact .inl rfl
  · exact .inl rfl

theorem updAction_named {s : State} {h g : Handle} {f : Action → Action} {b : Action} (named : (s.updAction h f).action? g = some b) :
    ∃ a, s.action? g = some a ∧ (b = a ∨ b = f a) := by
  unfold action? at named ⊢
  dsimp only at named ⊢
  obtain same | mapped := s.updAction_entry h f (handleIndex g)
  · rw [same] at named
    exact ⟨b, named, .inl rfl⟩
  · rw [mapped] at named
    dsimp only at named
    split_ifs at named ⊢ with current
    obtain ⟨a, bound, rfl⟩ := Option.map_eq_some_iff.1 named
    exact ⟨a, bound, .inr rfl⟩

theorem Acts.of_updAction (s : State) (h : Handle) (f : Action → Action) (channel : ∀ a, (f a).channel = a.channel)
    (ahead : ∀ a, (f a).state = .ahead → a.state = .ahead) : s.Acts (s.updAction h f) where
  pos := s.updAction_pos h f
  awaits n w := by unfold Awaits; rw [s.updAction_items]; exact id
  actions g b named := by
    obtain ⟨a, was, same⟩ := updAction_named named
    refine ⟨a, was, ?_⟩
    obtain rfl | rfl := same
    · exact ⟨rfl, id⟩
    · exact ⟨channel a, ahead a⟩
  stage := by unfold HeadDue; rw [s.updAction_recipes, s.updAction_pos]; exact id

theorem Acts.of_setSchedule (s : State) (c : Fin 16) (hs : List Handle) : s.Acts (s.setSchedule c hs) := .of_same rfl rfl rfl rfl

theorem Acts.of_updChannel (s : State) (c : Fin 16) (f : Channel → Channel) : s.Acts (s.updChannel c f) := .of_same rfl rfl rfl rfl

theorem Acts.post (s : State) (n : Half) (x : Position) (b : NoticeBody) : s.Acts (s.post n x b) :=
  .of_same (by simp) (by simp) (by simp) (by simp)

theorem Acts.of_ends {s t : State} (ends : s.Ends t) : s.Acts t where
  pos := ends.pos
  awaits n w := by
    rintro ⟨y, live, rfl, open_⟩
    obtain ⟨x, live, keeps⟩ := ends.kept y live
    refine ⟨x, live, keeps.number.symm, ?_⟩
    cases w with
    | jam =>
      have entering : y.state = .entering := open_
      exact keeps.state.elim (fun same => same.symm.trans entering) fun leaving => by rw [entering] at leaving; cases leaving
    | decision p => obtain ⟨pending, opened⟩ := open_; exact ⟨pending, keeps.slots ▸ opened⟩
    | missEnd k => exact fun m marked => open_ m (keeps.marks ▸ marked)
    | exit => exact fun leaving => open_ (keeps.state.elim (fun same => same.trans leaving) id)
  actions h b named := ⟨b, ends.action_eq named, rfl, id⟩
  stage := by unfold HeadDue; rw [ends.stage, ends.pos]; exact id

theorem Acts.raiseHold (s : State) (cause : Half) : s.Acts (s.raiseHold cause) := by
  unfold State.raiseHold
  split
  · exact .refl s
  · unfold State.changeHold
    split
    · exact .refl s
    · exact Acts.trans (t := { s with hold := s.hold ||| cause }) (.of_same rfl rfl rfl rfl) (.post _ _ _ _)

/-! ### Firing -/

theorem Acts.turnOn (s : State) (c : Fin 16) (h : Handle) (delayed : Bool) : s.Acts (s.turnOn c h delayed) := by
  unfold State.turnOn
  refine (Acts.of_updAction s h _ ?_ ?_).trans (.of_updChannel _ _ _)
  · exact fun _ => rfl
  · exact fun _ on => ActionState.noConfusion on

theorem Acts.handOver (s : State) (c : Fin 16) (h : Handle) : s.Acts (s.handOver c h) := by
  unfold State.handOver
  dsimp only
  have count := Acts.of_updChannel s c (fun ch => { ch with fireCount := ch.fireCount + 1 })
  split
  · exact count.trans (.turnOn _ _ _ _)
  · exact count.trans (.turnOn _ _ _ _)
  · split
    · exact (count.trans (.of_updChannel _ _ _)).trans (.turnOn _ _ _ _)
    · refine (count.trans (.of_updAction _ h _ ?_ ?_)).trans (.of_updChannel _ _ _)
      · exact fun _ => rfl
      · exact fun _ waits => ActionState.noConfusion waits

theorem Acts.becomeFiring (s : State) (h : Handle) (a : Action) (late : Bool) : s.Acts (s.becomeFiring h a late) := by
  unfold State.becomeFiring
  refine ((Acts.of_updAction s h _ ?_ ?_).trans (.of_setSchedule _ _ _)).trans (.handOver _ _ _)
  · exact fun _ => rfl
  · exact fun _ waits => ActionState.noConfusion waits

theorem Acts.reachFire (s : State) (h : Handle) (a : Action) : s.Acts (s.reachFire h a) := by
  unfold State.reachFire
  split
  · exact .becomeFiring s h a false
  · refine (Acts.of_updAction s h _ ?_ ?_).trans (.of_setSchedule _ _ _)
    · exact fun _ => rfl
    · exact fun _ overdue => ActionState.noConfusion overdue
  · exact .refl s

/-! ### Closes -/

theorem Acts.resolveAction (s : State) (slots : PerPort Slot) (h : Handle) : s.Acts (s.resolveAction slots h) := by
  unfold State.resolveAction
  split
  · exact .refl s
  · split
    · exact .refl s
    · split
      · exact .refl s
      · refine Acts.trans (.of_updAction s h _ ?_ ?_) (.of_ends (.endAction _ _ _))
        · exact fun _ => rfl
        · exact fun _ => id
      · exact .of_updAction s h _ (fun _ => rfl) fun _ => id

theorem Acts.fireOverdue (s : State) (h : Handle) : s.Acts (s.fireOverdue h) := by
  unfold State.fireOverdue
  split
  · split
    · exact .becomeFiring s _ _ _
    · exact .refl s
  · exact .refl s

theorem Acts.resolveItem (s : State) (n : Half) : s.Acts (s.resolveItem n) := by
  unfold State.resolveItem
  split
  · exact .refl s
  · exact (Acts.foldl _ (fun t h => .resolveAction t _ h) _ s).trans (.foldl _ .fireOverdue _ _)

theorem Acts.postDecided (s : State) (n : Half) (source : CloseSource) : s.Acts (s.postDecided n source) := by
  unfold State.postDecided
  split
  · exact .refl s
  · dsimp only
    split
    · exact .refl s
    · exact .post _ _ _ _

/-- A close whose slots are open only where those of the item are. -/
theorem Acts.closeSlots {s : State} {n : Half} {it : Item} (found : s.item? n = some it) (slots : PerPort Slot)
    (closes : ∀ p x, slots.get p = .opened x → ∃ y, it.slots.get p = .opened y) (held : Bool) (source : CloseSource) :
    s.Acts (s.closeSlots n slots held source) := by
  have closed : s.Acts (s.updItem n fun it => { it with slots := slots }) := by
    refine .of_updItem s n _ (fun _ => rfl) fun x live number w open_ => ?_
    cases w with
    | jam => exact ⟨x, live, number, open_⟩
    | decision p =>
      obtain ⟨pending, opened⟩ := open_
      exact ⟨it, mem_of_item found, number_of_item found, closes p pending opened⟩
    | missEnd k => exact ⟨x, live, number, open_⟩
    | exit => exact ⟨x, live, number, open_⟩
  unfold State.closeSlots
  refine (Acts.trans ?_ (.resolveItem _ n)).trans (.postDecided _ n source)
  split
  · exact closed.trans (.raiseHold _ _)
  · exact closed

theorem opened_set {slots : PerPort Slot} {p : Port} {x : Slot} (closed : ∀ pending, x ≠ .opened pending) (q : Port)
    (y : Option (Verdict × BitVec 6)) (opened : (slots.set p x).get q = .opened y) : ∃ z, slots.get q = .opened z := by
  by_cases own : q = p
  · rw [own, PerPort.get_set_self] at opened
    exact absurd opened (closed y)
  · rw [PerPort.get_set_other _ _ own] at opened
    exact ⟨y, opened⟩

theorem Acts.closeAtDecision (s : State) (n : Half) (p : Port) : s.Acts (s.closeAtDecision n p) := by
  unfold State.closeAtDecision
  split
  · exact .refl s
  next it found =>
    split
    next pending _ =>
      refine .closeSlots found _ (opened_set fun x => ?_) _ _
      unfold closedSlot
      cases pending <;> exact fun eq => by cases eq
    · exact .refl s

theorem Acts.forceClose (s : State) (n : Half) : s.Acts (s.forceClose n) := by
  unfold State.forceClose
  split
  · exact .refl s
  next it found =>
    split
    · refine .closeSlots found _ (fun p x opened => ?_) _ _
      have forced : ∀ y, forceSlot y ≠ .opened x := fun y => by cases y <;> exact fun eq => by cases eq
      cases p <;> exact absurd opened (forced _)
    · exact .refl s

/-! ### Points of items -/

theorem jamItem_pos (s : State) (n : Half) : (s.jamItem n).pos = s.pos := by
  unfold State.jamItem
  split
  · rfl
  · exact (Acts.raiseHold _ _).pos.trans (Acts.post _ _ _ _).pos

/-- The jam point of an item that is not LEAVING: it becomes TRACKED. -/
theorem Acts.jamItem {s : State} {n : Half} (stays : ∀ it, s.item? n = some it → it.state ≠ .leaving) : s.Acts (s.jamItem n) := by
  unfold State.jamItem
  split
  · exact .refl s
  next it found =>
    refine ((Acts.of_updItem s n _ ?_ fun x live number w open_ => ?_).trans (.post _ _ _ _)).trans (.raiseHold _ _)
    · exact fun _ => rfl
    · cases w with
      | jam => cases (open_ : ItemState.tracked = .entering)
      | decision p => exact ⟨x, live, number, open_⟩
      | missEnd k => exact ⟨x, live, number, open_⟩
      | exit => exact ⟨it, mem_of_item found, number_of_item found, stays it found⟩

theorem Acts.onMissAction (s : State) (n : Half) (m : OnMiss) : s.Acts (s.onMissAction n m) := by
  cases m with
  | note => exact .refl s
  | hold => exact .raiseHold s _
  | reject => exact .forceClose s n
  | remove => exact .of_ends (.takeOut s n _)

theorem Acts.missCheckpoint (s : State) (n : Half) (k : Fin 8) : s.Acts (s.missCheckpoint n k) := by
  unfold State.missCheckpoint
  split
  · exact .refl s
  · refine ((Acts.of_updItem s n _ ?_ fun x live number w open_ => ⟨x, live, number, ?_⟩).trans (.post _ _ _ _)).trans
      (.onMissAction _ _ _)
    · exact fun _ => rfl
    · cases w with
      | jam => exact open_
      | decision p => exact open_
      | missEnd k => exact fun m marked => open_ m (List.mem_append_left _ marked)
      | exit => exact open_

theorem Acts.actOnPoint {s : State} {n : Half} {w : ItemPoint}
    (stays : w = .jam → ∀ it, s.item? n = some it → it.state ≠ .leaving) : s.Acts (s.actOnPoint n w) := by
  cases w with
  | jam => exact .jamItem (stays rfl)
  | decision p => exact .closeAtDecision s n p
  | missEnd k => exact .missCheckpoint s n k
  | exit => exact .of_ends (.exitHead s)

theorem Acts.markGaps {s t : State} (acts : s.Acts t) (r : State) : s.Acts (r.markGaps t) :=
  acts.trans (.of_same rfl rfl rfl rfl)

/-! ### The Stage Queue -/

theorem applyStage_rest (s : State) : ∃ recipes ports, s.applyStage = { s with recipes := recipes, ports := ports } := by
  unfold State.applyStage
  split
  · exact ⟨_, _, rfl⟩
  · unfold State.post
    split <;> exact ⟨_, _, rfl⟩

theorem checkStage_rest (k : Nat) (s : State) :
    ∃ recipes ports, State.checkStage k s = { s with recipes := recipes, ports := ports } := by
  induction k generalizing s with
  | zero => exact ⟨_, _, rfl⟩
  | succ k ih =>
    unfold State.checkStage
    split
    · split
      · exact ⟨_, _, rfl⟩
      · obtain ⟨r, p, applied⟩ := s.applyStage_rest
        obtain ⟨r', p', checked⟩ := ih s.applyStage
        exact ⟨r', p', by rw [checked, applied]⟩
    · exact ⟨_, _, rfl⟩

theorem StageChecked.not_due {s t : State} (checked : State.StageChecked s t) : ¬t.HeadDue := by
  induction checked with
  | settled s ahead =>
    rintro ⟨i, rest, head⟩
    have apart := (ahead i s.pos.lp rest head).1
    rw [BitVec.sub_self] at apart
    exact absurd apart (by decide)
  | applied _ _ _ _ _ _ _ _ _ ih => exact ih

/-- The head applied and the heads behind it checked: none is due. -/
theorem Acts.applyStages (s : State) : s.Acts s.applyStage.checkStageHead ∧ ¬s.applyStage.checkStageHead.HeadDue := by
  have settled := StageChecked.not_due (checkStageHead_checked s.applyStage)
  obtain ⟨r, p, applied⟩ := s.applyStage_rest
  obtain ⟨r', p', checked⟩ := checkStage_rest s.applyStage.recipes.stage.length s.applyStage
  have whole : s.applyStage.checkStageHead = { s with recipes := r', ports := p' } := by
    unfold State.checkStageHead
    rw [checked, applied]
  refine ⟨⟨by rw [whole], fun n w => by rw [whole]; exact id, fun h b named => ⟨b, ?_, rfl, id⟩, fun due => absurd due settled⟩,
    settled⟩
  rw [whole] at named
  exact named

/-! ### The tasks of a count -/

theorem startMoving_acts (s : State) (d : Direction) :
    ({ s with pos := { s.pos with motion := .moving } } : State).Acts (s.startMoving d) :=
  .post _ _ _ _

theorem beginExcursion_acts (s : State) :
    ({ s with pos := { s.pos with excursion := true } } : State).Acts s.beginExcursion :=
  ((Acts.post _ _ _ _).trans (.raiseHold _ _)).trans (.of_ends (.endActions _ _ _))

/-- The position after a task of a count: LP and all but the motion and the excursion flag stay. -/
theorem doTask_pos (s : State) (d : Direction) (task : CountTask) : (s.doTask d task).pos =
    match task with
    | .motion => { s.pos with motion := .moving }
    | .excursion => { s.pos with excursion := true }
    | _ => s.pos := by
  cases task with
  | motion => exact (s.startMoving_acts d).pos
  | excursion => exact s.beginExcursion_acts.pos
  | point n w =>
    cases w with
    | jam => exact s.jamItem_pos n
    | decision p => exact (Acts.closeAtDecision s n p).pos
    | missEnd k => exact (Acts.missCheckpoint s n k).pos
    | exit => exact (Acts.of_ends (.exitHead s)).pos
  | stage => exact (Acts.applyStages s).1.pos
  | fire h =>
    show ((s.action? h).elim s (s.reachFire h)).pos = s.pos
    cases s.action? h with
    | none => rfl
    | some a => exact (Acts.reachFire s h a).pos
  | windowEnd h => exact ((Acts.of_ends (.endAction s h .done)).markGaps s).pos

/-- A task of a count that does not stand, and that nothing which a count does brings to stand. -/
def Spent (s : State) : CountTask → Prop
  | .motion => s.pos.motion = .moving
  | .excursion => s.pos.excursion = true
  | .point n w => ¬s.Awaits n w
  | .stage => ¬s.HeadDue
  | .fire h => ∀ a, s.action? h = some a → a.state ≠ .ahead
  | .windowEnd h => s.action? h = none

/-- What a count does spends tasks, and binds no action. -/
structure Onward (s t : State) : Prop where
  spent : ∀ task, s.Spent task → t.Spent task
  bound : ∀ h b, t.action? h = some b → ∃ a, s.action? h = some a ∧ b.channel = a.channel

theorem Onward.refl (s : State) : s.Onward s := ⟨fun _ => id, fun _ b named => ⟨b, named, rfl⟩⟩

theorem Onward.trans {s t u : State} (first : s.Onward t) (next : t.Onward u) : s.Onward u where
  spent task := next.spent task ∘ first.spent task
  bound h c named := by
    obtain ⟨b, named, channel⟩ := next.bound h c named
    obtain ⟨a, named, channel'⟩ := first.bound h b named
    exact ⟨a, named, channel.trans channel'⟩

theorem Acts.onward {s t : State} (acts : s.Acts t) : s.Onward t where
  spent task spent := by
    cases task with
    | motion => exact (congrArg PositionCounter.motion acts.pos).trans spent
    | excursion => exact (congrArg PositionCounter.excursion acts.pos).trans spent
    | point n w => exact spent ∘ acts.awaits n w
    | stage => exact spent ∘ acts.stage
    | fire h =>
      intro b named ahead
      obtain ⟨a, was, -, back⟩ := acts.actions h b named
      exact spent a was (back ahead)
    | windowEnd h =>
      refine Option.eq_none_iff_forall_ne_some.2 fun b named => ?_
      obtain ⟨a, was, -⟩ := acts.actions h b named
      exact Option.some_ne_none a (was.symm.trans spent)
  bound h b named := by
    obtain ⟨a, was, channel, -⟩ := acts.actions h b named
    exact ⟨a, was, channel⟩

theorem onward_of_free (s : State) (free : Nat) : s.Onward { s with free := free } :=
  Acts.onward (t := { s with free := free }) (.of_same rfl rfl rfl rfl)

theorem Onward.startMoving (s : State) (d : Direction) : s.Onward (s.startMoving d) :=
  Onward.trans (t := { s with pos := { s.pos with motion := .moving } })
    ⟨fun task spent => by cases task <;> first | exact spent | rfl, fun _ b named => ⟨b, named, rfl⟩⟩ (s.startMoving_acts d).onward

theorem Onward.beginExcursion (s : State) : s.Onward s.beginExcursion :=
  Onward.trans (t := { s with pos := { s.pos with excursion := true } })
    ⟨fun task spent => by cases task <;> first | exact spent | rfl, fun _ b named => ⟨b, named, rfl⟩⟩ s.beginExcursion_acts.onward

/-- A task that stands, done: nothing is brought to stand again. -/
theorem Onward.doTask {s : State} {d : Direction} {task : CountTask}
    (sound : d = .forward → s.StoreSound (fun _ => False) fun _ => False) (stands : s.Stands d task) (free : Nat) :
    s.Onward (({ s with free := free } : State).doTask d task) := by
  refine (s.onward_of_free free).trans ?_
  cases stands with
  | motion => exact .startMoving _ d
  | excursion => exact .beginExcursion _
  | point it live offset w watches =>
    have acts : ({ s with free := free } : State).Acts (({ s with free := free } : State).actOnPoint it.number w) := by
      refine .actOnPoint fun jam x found => ?_
      subst jam
      obtain rfl := Option.some.inj (((sound rfl).item_of_mem live).symm.trans found)
      exact fun leaving => ItemState.noConfusion (leaving.symm.trans watches.awaits)
    cases w with
    | missEnd k => exact (acts.markGaps _).onward
    | jam => exact acts.onward
    | decision p => exact acts.onward
    | exit => exact acts.onward
  | stage => exact (Acts.applyStages _).1.onward
  | fire c a first =>
    show Onward _ ((({ s with free := free } : State).action? a.handle).elim _ _)
    cases ({ s with free := free } : State).action? a.handle with
    | none => exact .refl _
    | some b => exact (Acts.reachFire _ _ b).onward
  | windowEnd c a first => exact ((Acts.of_ends (.endAction _ _ _)).markGaps _).onward

/-! ### A task done is spent -/

theorem updItem_awaits {s : State} {n : Half} {f : Item → Item} {w : ItemPoint}
    (closes : ∀ x, ¬(f x).Awaits w) : ¬(s.updItem n f).Awaits n w := by
  rintro ⟨y, after, own, open_⟩
  obtain ⟨x, live, rfl⟩ := mem_updItem_live after
  by_cases same : x.number = n
  · rw [if_pos same] at open_
    exact closes x open_
  · rw [if_neg same] at own
    exact same own

theorem closeSlots_awaits {s : State} {n : Half} {p : Port} {slots : PerPort Slot} (closed : ∀ x, slots.get p ≠ .opened x)
    (held : Bool) (source : CloseSource) : ¬(s.closeSlots n slots held source).Awaits n (.decision p) := by
  unfold State.closeSlots
  refine fun open_ => ?_
  replace open_ := (Acts.resolveItem _ n).awaits _ _ ((Acts.postDecided _ n source).awaits _ _ open_)
  have stored : ¬(s.updItem n fun it => { it with slots := slots }).Awaits n (.decision p) :=
    updItem_awaits fun _ ⟨x, opened⟩ => closed x opened
  split at open_
  · exact stored ((Acts.raiseHold _ _).awaits _ _ open_)
  · exact stored open_

/-- The exit of the head leaves it gone or LEAVING. -/
theorem exitHead_awaits {s : State} (items : s.ItemsSound) {n : Half} {it : Item} (found : s.item? n = some it)
    (head : s.isHead n = true) (stays : it.state ≠ .leaving) : ¬s.exitHead.Awaits n .exit := by
  rintro ⟨y, live, number, open_⟩
  have ends := Ends.exitHead s
  obtain ⟨x, before, keeps⟩ := ends.kept y live
  have same : x = it := by
    have own := item_of_distinct items.distinct before
    rw [← keeps.number, number, found] at own
    exact (Option.some.inj own).symm
  subst same
  have fewer := exitHead_left found head stays y (number ▸ item_of_distinct (ends.items items).distinct live)
  have left : pointsLeft y = pointsLeft x := by
    have unmarked : y.unmarked = x.unmarked := by
      funext k
      unfold Item.unmarked
      rw [keeps.marks]
    unfold pointsLeft
    rw [keeps.state.resolve_right open_, keeps.slots, unmarked]
  have some_left : 0 < pointsLeft x := by
    unfold pointsLeft
    rw [if_neg stays]
    omega
  omega

theorem actOnPoint_spends {s : State} (items : s.ItemsSound) {it : Item} (live : it ∈ s.items.live) {offset : Nat} {x : Position}
    {w : ItemPoint} (watches : s.Watches it offset x w) : ¬(s.actOnPoint it.number w).Awaits it.number w := by
  have found := item_of_distinct items.distinct live
  cases watches with
  | jam entering =>
    show ¬(s.jamItem it.number).Awaits _ _
    unfold State.jamItem
    rw [found]
    refine fun open_ => updItem_awaits (s := s) ?_ ((Acts.post _ _ _ _).awaits _ _ ((Acts.raiseHold _ _).awaits _ _ open_))
    exact fun _ entering => ItemState.noConfusion entering
  | decision p pending opened =>
    show ¬(s.closeAtDecision it.number p).Awaits _ _
    unfold State.closeAtDecision
    rw [found]
    dsimp only
    rw [opened]
    refine closeSlots_awaits (fun x => ?_) _ _
    rw [PerPort.get_set_self]
    unfold closedSlot
    cases pending <;> exact fun eq => Slot.noConfusion eq
  | missEnd k role unmarked =>
    show ¬(s.missCheckpoint it.number k).Awaits _ _
    unfold State.missCheckpoint
    rw [found]
    refine fun open_ => updItem_awaits (s := s) ?_ ((Acts.post _ _ _ _).awaits _ _ ((Acts.onMissAction _ _ _).awaits _ _ open_))
    exact fun _ unmarked => unmarked ⟨k, .missed⟩ (List.mem_append_right _ (.head _)) rfl
  | exit head stays => exact exitHead_awaits items found ((isHead_iff _ _).2 head) stays

/-- The fire point reached: the action fires or becomes OVERDUE. -/
theorem reachFire_spends {s : State} {h : Handle} {a : Action} (named : s.action? h = some a) (undecided : a.condState ≠ .fails) :
    ∀ b, (s.reachFire h a).action? h = some b → b.state ≠ .ahead := by
  have reached := reachFire_reached named
  have becomes : ∀ c : Action, s.Recorded (s.reachFire h a) h c → c.state ≠ .ahead →
      ∀ b, (s.reachFire h a).action? h = some b → b.state ≠ .ahead := fun c record apart b now => by
    obtain rfl := Option.some.inj (now.symm.trans (record.action_self named))
    exact apart
  cases cond : a.condState with
  | holds =>
    have handed := reached.fires cond
    by_cases waits : s.waitsForGap a.channel
    · exact becomes _ (handed.waits waits).1 fun eq => ActionState.noConfusion eq
    · exact becomes _ (handed.turnsOn waits).1 fun eq => ActionState.noConfusion eq
  | fails => exact absurd cond undecided
  | unresolved => exact becomes _ (reached.overdue cond).1 fun eq => ActionState.noConfusion eq

theorem Watches.of_free {s : State} {it : Item} {offset : Nat} {x : Position} {w : ItemPoint}
    (watches : s.Watches it offset x w) (free : Nat) : ({ s with free := free } : State).Watches it offset x w := by
  cases watches with
  | jam entering length eq => exact .jam entering length eq
  | decision p pending opened => exact .decision p pending opened
  | missEnd k role unmarked => exact .missEnd k role unmarked
  | exit head stays => exact .exit head stays

/-- A task done is spent. -/
theorem doTask_spends {s : State} {d : Direction} {task : CountTask} (items : d = .forward → s.ItemsSound)
    (pool : d = .forward → s.PoolSound) (stands : s.Stands d task) (free : Nat) :
    (({ s with free := free } : State).doTask d task).Spent task := by
  cases stands with
  | motion => exact congrArg PositionCounter.motion (doTask_pos _ d .motion)
  | excursion => exact congrArg PositionCounter.excursion (doTask_pos _ .backward .excursion)
  | point it live offset w watches =>
    have sound : ({ s with free := free } : State).ItemsSound :=
      have i := items rfl
      ⟨i.atMost, i.distinct, i.nonzero, i.next, i.refCounts⟩
    have drawn : ({ s with free := free } : State).Watches it offset s.pos.lp w := watches.of_free free
    have spent := actOnPoint_spends sound live drawn
    cases w with
    | missEnd k => exact spent
    | jam => exact spent
    | decision p => exact spent
    | exit => exact spent
  | stage => exact (Acts.applyStages _).2
  | fire c a first =>
    obtain ⟨member, due⟩ := List.mem_filter.1 (List.mem_of_mem_head? first)
    obtain ⟨h, -, named⟩ := List.mem_filterMap.1 member
    have own := (pool rfl).handle named
    have named : ({ s with free := free } : State).action? a.handle = some a := by rw [own]; exact named
    rw [State.doTask, named]
    exact reachFire_spends named (of_decide_eq_true due).2.1
  | windowEnd c a first => exact endAction_action _ _ _

end State

end Sys2Proof.Machine
end

section
/-! PROOFS. The tasks of one count (R7 to R10): each is done once, and none is left standing. -/
namespace Sys2Proof.Machine

/-! ### What a count may have to act on -/

/-- The points that an item can have. -/
def itemPoints : List ItemPoint := [.jam, .exit] ++ ports3.map .decision ++ (List.finRange 8).map .missEnd

theorem mem_itemPoints (w : ItemPoint) : w ∈ itemPoints := by
  cases w with
  | jam => decide
  | decision p => cases p <;> decide
  | missEnd k => revert k; decide
  | exit => decide

namespace State

/-- The handles in the schedules. -/
def scheduledHandles (s : State) : List Handle := (List.finRange 16).flatMap s.schedule

/-- Everything that a count taken in this state may have to act on. -/
def candidates (s : State) : List CountTask :=
  [.motion, .excursion, .stage] ++ s.items.live.flatMap (fun it => itemPoints.map (.point it.number)) ++
    s.scheduledHandles.map .fire ++ s.scheduledHandles.map .windowEnd

theorem length_candidates (s : State) : s.candidates.length = s.taskBound := by
  have points : (s.items.live.flatMap (fun it => itemPoints.map (CountTask.point it.number))).length =
      maxItemPoints * s.items.live.length := by
    induction s.items.live with
    | nil => rfl
    | cons it live ih =>
      rw [List.flatMap_cons, List.length_append, ih, List.length_map, List.length_cons, show itemPoints.length = maxItemPoints from rfl,
        Nat.mul_succ, Nat.add_comm]
  have handles : s.scheduledHandles.length = ((List.finRange 16).map (fun c => (s.schedule c).length)).sum := List.length_flatMap
  unfold candidates taskBound
  simp only [List.length_append, List.length_map, points, handles, List.length_cons, List.length_nil]
  omega

/-- The Item Table and the Action Store are as the invariants have them. -/
structure TablesSound (s : State) : Prop where
  items : s.ItemsSound
  store : s.StoreSound (fun _ => False) (fun _ => False)

theorem TablesSound.doTask {s : State} {d : Direction} {task : CountTask} (sound : s.TablesSound) (stands : s.Stands d task)
    (free : Nat) : (({ s with free := free } : State).doTask d task).TablesSound :=
  have i := sound.items
  ⟨(Runs.doTask { s with free := free } d task).items ⟨i.atMost, i.distinct, i.nonzero, i.next, i.refCounts⟩,
    sound.store.doTask stands free⟩

theorem action_of_actionsOf {s : State} (pool : s.PoolSound) {hs : List Handle} {a : Action} (member : a ∈ s.actionsOf hs) :
    a.handle ∈ hs ∧ s.action? a.handle = some a := by
  obtain ⟨h, listed, named⟩ := List.mem_filterMap.1 member
  exact pool.handle named ▸ ⟨listed, named⟩

theorem Spent.not_stands {s : State} {d : Direction} {task : CountTask} (sound : d = .forward → s.TablesSound)
    (spent : s.Spent task) : ¬s.Stands d task := by
  intro stands
  cases stands with
  | motion d still => exact Motion.noConfusion (still.symm.trans spent)
  | excursion fresh far => exact Bool.noConfusion (fresh.symm.trans spent)
  | point it live offset w watches => exact spent ⟨it, live, rfl, watches.awaits⟩
  | stage i rest head => exact spent ⟨i, rest, head⟩
  | fire c a first =>
    obtain ⟨member, due⟩ := List.mem_filter.1 (List.mem_of_mem_head? first)
    exact spent a (action_of_actionsOf (sound rfl).store.pool member).2 (of_decide_eq_true due).1
  | windowEnd c a first =>
    obtain ⟨member, -⟩ := List.mem_filter.1 (List.mem_of_mem_head? first)
    exact Option.some_ne_none a ((action_of_actionsOf (sound rfl).store.pool member).2.symm.trans spent)

/-- What stands in the course of a count is a candidate of its beginning. -/
theorem Stands.candidate {s t : State} {d : Direction} {task : CountTask} (before : d = .forward → s.TablesSound)
    (after : d = .forward → t.TablesSound) (onward : s.Onward t) (stands : t.Stands d task) : task ∈ s.candidates := by
  have handle : d = .forward → ∀ c a, a ∈ t.actionsOf (t.schedule c) → a.handle ∈ s.scheduledHandles := by
    intro forward c a member
    obtain ⟨b, named, -⟩ := onward.bound _ a (action_of_actionsOf (after forward).store.pool member).2
    exact List.mem_flatMap.2 ⟨b.channel, List.mem_finRange _, ((before forward).store.scheduled _ _).2 ⟨b, named, rfl⟩⟩
  simp only [candidates, List.mem_append]
  cases stands with
  | motion => exact .inl (.inl (.inl (by simp)))
  | excursion => exact .inl (.inl (.inl (by simp)))
  | point it live offset w watches =>
    have open_ : s.Awaits it.number w := not_not.1 fun spent => onward.spent (.point it.number w) spent ⟨it, live, rfl, watches.awaits⟩
    obtain ⟨x, live, number, -⟩ := open_
    exact .inl (.inl (.inr (List.mem_flatMap.2 ⟨x, live, number ▸ List.mem_map_of_mem (mem_itemPoints w)⟩)))
  | stage => exact .inl (.inl (.inl (by simp)))
  | fire c a first =>
    exact .inl (.inr (List.mem_map_of_mem (handle rfl c a (List.mem_filter.1 (List.mem_of_mem_head? first)).1)))
  | windowEnd c a first =>
    exact .inr (List.mem_map_of_mem (handle rfl c a (List.mem_filter.1 (List.mem_of_mem_head? first)).1))

/-! ### The run -/

/-- What the run of a count leaves: each task of it was not spent before and is spent after. -/
structure RunSpends (d : Direction) (tasks : List CountTask) (s t : State) : Prop where
  onward : s.Onward t
  sound : d = .forward → t.TablesSound
  once : tasks.Nodup
  fresh : ∀ task ∈ tasks, ¬s.Spent task
  spent : ∀ task ∈ tasks, t.Spent task
  candidate : ∀ r : State, (d = .forward → r.TablesSound) → r.Onward s → ∀ task ∈ tasks, task ∈ r.candidates

theorem CountRuns.spends {d : Direction} {tasks : List CountTask} {s t : State} (runs : State.CountRuns d tasks s t)
    (sound : d = .forward → s.TablesSound) : RunSpends d tasks s t := by
  induction runs with
  | done s => exact ⟨.refl s, sound, .nil, nofun, nofun, fun _ _ _ => nofun⟩
  | next s t task rest free stands more ih =>
    have done := Onward.doTask (fun forward => (sound forward).store) stands free
    have now := doTask_spends (fun forward => (sound forward).items) (fun forward => (sound forward).store.pool) stands free
    have later := ih fun forward => (sound forward).doTask stands free
    refine ⟨done.trans later.onward, later.sound, List.nodup_cons.2 ⟨fun again => later.fresh task again now, later.once⟩, ?_, ?_, ?_⟩
    · refine List.forall_mem_cons.2 ⟨fun spent => spent.not_stands sound stands, fun x listed spent => ?_⟩
      exact later.fresh x listed (done.spent x spent)
    · exact List.forall_mem_cons.2 ⟨later.onward.spent task now, later.spent⟩
    · intro r before onward
      exact List.forall_mem_cons.2 ⟨stands.candidate before sound onward, later.candidate r before (onward.trans done)⟩

/-- The run stops where nothing stands, or with its fuel. -/
theorem runTasks_stops (k : Nat) (d : Direction) (s : State) : ∃ tasks, State.CountRuns d tasks s (State.runTasks k d s) ∧
    (tasks.length = k ∨ ∀ task, ¬(State.runTasks k d s).Stands d task) := by
  induction k generalizing s with
  | zero => exact ⟨[], .done s, .inl rfl⟩
  | succ k ih =>
    unfold State.runTasks
    dsimp only
    obtain ⟨free, drawn⟩ := s.choose_eq (s.countTasks d).length
    cases chosen : (s.countTasks d)[(s.choose (s.countTasks d).length).1]? with
    | none => exact ⟨[], .done s, .inr fun task stands => by
        have listed := mem_countTasks.2 stands
        rw [s.choose_none chosen] at listed
        cases listed⟩
    | some task =>
      dsimp only
      rw [drawn]
      obtain ⟨tasks, runs, stops⟩ := ih (({ s with free := free } : State).doTask d task)
      exact ⟨task :: tasks, .next s _ task tasks free (mem_countTasks.1 (List.mem_of_getElem? chosen)) runs,
        stops.imp_left (congrArg Nat.succ)⟩

/-- A run with a task's worth of fuel for each candidate leaves nothing standing. -/
theorem CountRuns.nothing_stands {d : Direction} {tasks : List CountTask} {s t : State} (runs : State.CountRuns d tasks s t)
    (sound : d = .forward → s.TablesSound) (stops : tasks.length = s.taskBound ∨ ∀ task, ¬t.Stands d task) :
    ∀ task, ¬t.Stands d task := by
  have spends := runs.spends sound
  refine stops.elim (fun full task stands => ?_) id
  have all : tasks.Perm s.candidates := (spends.once.subperm (spends.candidate s sound (.refl s))).perm_of_length_le
    (by rw [length_candidates, full])
  exact (spends.spent task (all.mem_iff.2 (stands.candidate sound spends.sound spends.onward))).not_stands spends.sound stands

/-- The motion after the tasks of a count: MOVING once it has been among them, and as it was until then. -/
theorem CountRuns.motion {d : Direction} {tasks : List CountTask} {s t : State} (runs : State.CountRuns d tasks s t) :
    t.pos.motion = if .motion ∈ tasks then .moving else s.pos.motion := by
  induction runs with
  | done s => rfl
  | next s t task rest free stands more ih =>
    rw [ih, doTask_pos]
    cases task <;> simp

theorem counted_eq (s : State) (d : Direction) :
    let lp := if d = .forward then s.pos.lp + 1 else s.pos.lp - 1
    let hwp := if d = .forward ∧ s.pos.lp = s.pos.hwp then lp else s.pos.hwp
    s.counted d = { s with pos := { s.pos with
      lp := lp, hwp := hwp, standstillTimer := some s.line.standstillTime
      excursion := if d = .forward then s.pos.excursion && lp != hwp else s.pos.excursion } } := by
  cases d with
  | forward =>
    by_cases top : s.pos.lp = s.pos.hwp <;> simp [counted, PositionCounter.count, top, bne, beq_eq_decide]
  | backward => simp [counted, PositionCounter.count]

end State

/-- Settles O48: the run of the tasks (`State.runTasks_stops`), each of them spent when it is done. -/
theorem countsActOnEveryReachedPoint : Obligations.CountsActOnEveryReachedPoint := by
  unfold Obligations.CountsActOnEveryReachedPoint
  intro s d
  dsimp only
  rw [← s.counted_eq d]
  obtain ⟨tasks, runs, stops⟩ := State.runTasks_stops (s.counted d).taskBound d (s.counted d)
  refine ⟨tasks, _, runs, s.takeCount_eq d, fun items actions => ?_⟩
  have sound : d = .forward → (s.counted d).TablesSound := fun _ =>
    ⟨⟨items.atMost, items.distinct, items.nonzero, items.next, items.refCounts⟩,
      (State.KeepsStore.of_pos s _).store (actions.store items)⟩
  have nothing := runs.nothing_stands sound stops
  have moving : (State.runTasks (s.counted d).taskBound d (s.counted d)).pos.motion = .moving := by
    cases motion : (State.runTasks (s.counted d).taskBound d (s.counted d)).pos.motion with
    | still => exact absurd (.motion d motion) (nothing .motion)
    | moving => rfl
  have before : (s.counted d).pos.motion = s.pos.motion := by cases d <;> rfl
  refine ⟨(runs.spends sound).once, nothing, ⟨fun listed => ?_, fun still => ?_⟩, moving⟩
  · cases motion : s.pos.motion with
    | still => rfl
    | moving => exact absurd (before.trans motion) ((runs.spends sound).fresh .motion listed)
  · have after := runs.motion
    by_contra absent
    rw [if_neg absent, before, still, moving] at after
    cases after

end Sys2Proof.Machine
end

section
/-! PROOFS. Counts and the decoding of the encoder (R1 to R11). -/
namespace Sys2Proof.Machine

namespace State

/-! ### One count -/

/-- The position after the tasks of a count. -/
theorem CountRuns.pos {d : Direction} {tasks : List CountTask} {s t : State} (runs : State.CountRuns d tasks s t) :
    t.pos = { s.pos with motion := t.pos.motion, excursion := t.pos.excursion } := by
  induction runs with
  | done s => rfl
  | next s t task rest free stands more ih =>
    rw [ih, doTask_pos]
    cases task <;> rfl

theorem CountRuns.excursion {d : Direction} {tasks : List CountTask} {s t : State} (runs : State.CountRuns d tasks s t) :
    t.pos.excursion = if .excursion ∈ tasks then true else s.pos.excursion := by
  induction runs with
  | done s => rfl
  | next s t task rest free stands more ih =>
    rw [ih, doTask_pos]
    cases task <;> simp

/-- Only a backward count that runs too far back begins an excursion. -/
theorem CountRuns.far {d : Direction} {tasks : List CountTask} {s t : State} (runs : State.CountRuns d tasks s t)
    (begins : .excursion ∈ tasks) : d = .backward ∧ s.line.reverseAllowance.toNat < (s.pos.hwp - s.pos.lp).toNat := by
  induction runs with
  | done s => cases begins
  | next s t task rest free stands more ih =>
    obtain rfl | later := List.mem_cons.1 begins
    · cases stands with
      | excursion fresh far => exact ⟨rfl, far⟩
    · obtain ⟨back, far⟩ := ih later
      have same := Runs.doTask ({ s with free := free } : State) d task
      rw [same.line, same.hwp, same.lp] at far
      exact ⟨back, far⟩

theorem settleGaps_pos (s : State) : s.settleGaps.pos = s.pos := rfl

/-- R6, R9, R10, R11: a count in every state. -/
theorem takeCount_counted (s : State) (d : Direction) : s.pos.Counted (s.takeCount d).pos d s.line := by
  obtain ⟨tasks, runs, stops⟩ := State.runTasks_stops (s.counted d).taskBound d (s.counted d)
  have line := (Runs.runTasks (s.counted d).taskBound d (s.counted d)).line
  rw [takeCount_eq, settleGaps_pos]
  generalize State.runTasks (s.counted d).taskBound d (s.counted d) = u at runs stops line ⊢
  have pos := runs.pos
  have excursion := runs.excursion
  have nothing : d = .backward → ∀ task, ¬u.Stands d task := fun back =>
    runs.nothing_stands (fun forward => by rw [forward] at back; cases back) stops
  have far := runs.far
  rw [counted_eq] at pos excursion far
  dsimp only at pos excursion far
  cases d with
  | forward =>
    have none_begins : .excursion ∉ tasks := fun begins => Direction.noConfusion (far begins).1
    rw [if_neg none_begins] at excursion
    rw [pos]
    refine ⟨rfl, by simp, ?_, rfl, nofun, rfl, rfl, rfl, rfl, rfl⟩
    simp only [excursion]
    simp
  | backward =>
    have moving : u.pos.motion = .moving := by
      cases motion : u.pos.motion with
      | still => exact absurd (.motion _ motion) (nothing rfl .motion)
      | moving => rfl
    have at_end := nothing rfl .excursion
    have flag : u.pos.excursion = true ↔ s.pos.excursion = true ∨
        s.line.reverseAllowance.toNat < (s.pos.hwp - (s.pos.lp - 1)).toNat := by
      constructor
      · intro flag
        rw [excursion] at flag
        split at flag
        · exact .inr (by simpa using (far ‹_›).2)
        · exact .inl (by simpa using flag)
      · rintro (flag | beyond)
        · rw [excursion]
          split
          · rfl
          · simpa using flag
        · by_contra off
          refine at_end (.excursion (by simpa using off) ?_)
          rw [line, pos]
          exact beyond
    rw [pos]
    refine ⟨rfl, by simp, ?_, rfl, fun _ => moving, rfl, rfl, rfl, rfl, rfl⟩
    simpa using flag

theorem CountKeeps.settled {s t : State} (runs : Runs False s t) : s.CountKeeps t.settleGaps :=
  ⟨⟨runs.rstn, runs.line, runs.inputs, runs.leases, runs.pending⟩, fun q => (runs.ports q).onlyNotices, runs.body⟩

theorem takeCount_keeps (s : State) (d : Direction) : s.CountKeeps (s.takeCount d) := by
  have keeps := CountKeeps.settled (Runs.runTasks (s.counted d).taskBound d (s.counted d))
  rw [takeCount_eq]
  exact ⟨keeps.world, keeps.ports, keeps.recipes⟩

theorem CountKeeps.trans {s t u : State} (first : s.CountKeeps t) (next : t.CountKeeps u) : s.CountKeeps u where
  world :=
    have a := first.world
    have b := next.world
    ⟨b.1.trans a.1, b.2.1.trans a.2.1, b.2.2.1.trans a.2.2.1, b.2.2.2.1.trans a.2.2.2.1, b.2.2.2.2.trans a.2.2.2.2⟩
  ports q :=
    have a := first.ports q
    have b := next.ports q
    ⟨b.session.trans a.session, b.csnLow.trans a.csnLow, b.transaction.trans a.transaction, b.waiting.trans a.waiting,
      b.slot.trans a.slot, a.queue.trans b.queue⟩
  recipes i := ⟨(next.recipes i).1.trans (first.recipes i).1, (next.recipes i).2.trans (first.recipes i).2⟩

/-- One count before inversion (R3). -/
theorem takeCount_taken (s : State) (d : Direction) : s.CountTaken (s.takeCount (invertDirection s.line.invert d)) d := by
  have after : invertDirection s.line.invert d = if s.line.invert then (if d = .forward then .backward else .forward) else d := by
    cases s.line.invert <;> cases d <;> rfl
  rw [after]
  exact ⟨s.takeCount_counted _, s.takeCount_keeps _, rfl⟩

/-! ### Decoding -/

/-- The decoder's reference after a comparison. -/
def compared (s : State) : State :=
  { s with pos := { s.pos with refA := s.pos.phaseA.accepted, refB := s.pos.phaseB.accepted } }

theorem decode_of_noCount {s : State}
    (none : decodePhases s.line.encoderMode s.pos.refA s.pos.refB s.pos.phaseA.accepted s.pos.phaseB.accepted = .noCount) :
    s.decode = s.compared := by
  rw [decode, none]
  rfl

theorem decode_of_count {s : State} {d : Direction}
    (count : decodePhases s.line.encoderMode s.pos.refA s.pos.refB s.pos.phaseA.accepted s.pos.phaseB.accepted = .count d) :
    s.compared.CountTaken s.decode d := by
  rw [decode, count]
  exact s.compared.takeCount_taken d

theorem post_ports_only (s : State) (n : Half) (x : Position) (b : NoticeBody) :
    s.post n x b = { s with ports := (s.post n x b).ports } := by
  unfold State.post
  split <;> rfl

/-- R5: an illegal transition. -/
theorem decode_of_illegal {s : State}
    (illegal : decodePhases s.line.encoderMode s.pos.refA s.pos.refB s.pos.phaseA.accepted s.pos.phaseB.accepted = .illegal) :
    ∃ v : State,
      let error := if s.pos.errorCount = 65535 then s.pos.errorCount else s.pos.errorCount + 1
      v = { s.compared with pos := { s.compared.pos with errorCount := error }, ports := v.ports } ∧
      s.compared.Posted v .line 0 s.pos.lp (.encoderError error) ∧
      v.HoldChanged s.decode (if s.line.holdMask &&& 0x0200 = 0 then s.hold else s.hold ||| 0x0200) .raised none := by
  rw [decode, illegal]
  let counted : State := { s.compared with pos := { s.compared.pos with errorCount := saturatingSucc s.pos.errorCount } }
  refine ⟨counted.post 0 s.pos.lp (.encoderError (saturatingSucc s.pos.errorCount)), post_ports_only counted _ _ _,
    counted.post_posted _ _ _ rfl, ?_⟩
  have raised := raiseHold_changed (counted.post 0 s.pos.lp (.encoderError (saturatingSucc s.pos.errorCount))) causeEncoder
  rw [post_line, post_hold] at raised
  exact raised

theorem twoCounts_counted (s : State) (d e : Direction) : s.pos.Counted (s.takeCount d).pos d s.line ∧
    (s.takeCount d).pos.Counted ((s.takeCount d).takeCount e).pos e s.line ∧ s.CountKeeps ((s.takeCount d).takeCount e) := by
  have first := s.takeCount_keeps d
  have second := (s.takeCount d).takeCount_counted e
  rw [first.world.2.1] at second
  exact ⟨s.takeCount_counted d, second, first.trans ((s.takeCount d).takeCount_keeps e)⟩

theorem decode_both_eq {s : State}
    (both : decodePhases s.line.encoderMode s.pos.refA s.pos.refB s.pos.phaseA.accepted s.pos.phaseB.accepted = .both) :
    s.decode = if s.compared.chooseBool.1 then (s.compared.chooseBool.2.takeCount .forward).takeCount .backward
      else (s.compared.chooseBool.2.takeCount .backward).takeCount .forward := by
  rw [decode, both]
  rfl

/-- R2: A and B rise together. -/
theorem decode_of_both {s : State}
    (both : decodePhases s.line.encoderMode s.pos.refA s.pos.refB s.pos.phaseA.accepted s.pos.phaseB.accepted = .both) :
    ∃ (n : Nat) (p : PositionCounter), s.compared.CountKeeps s.decode ∧
      (s.compared.pos.Counted p .forward s.line ∧ p.Counted s.decode.pos .backward s.line ∧
          s.decode = (({ s.compared with free := n } : State).takeCount .forward).takeCount .backward ∨
        s.compared.pos.Counted p .backward s.line ∧ p.Counted s.decode.pos .forward s.line ∧
          s.decode = (({ s.compared with free := n } : State).takeCount .backward).takeCount .forward) := by
  obtain ⟨free, drawn⟩ := s.compared.choose_eq 2
  have whole := decode_both_eq both
  generalize s.decode = t at whole ⊢
  rw [show s.compared.chooseBool.2 = _ from drawn] at whole
  split at whole
  · obtain ⟨first, second, keeps⟩ := twoCounts_counted { s.compared with free := free } .forward .backward
    rw [← whole] at second keeps
    exact ⟨free, _, ⟨keeps.world, keeps.ports, keeps.recipes⟩, .inl ⟨first, second, whole⟩⟩
  · obtain ⟨first, second, keeps⟩ := twoCounts_counted { s.compared with free := free } .backward .forward
    rw [← whole] at second keeps
    exact ⟨free, _, ⟨keeps.world, keeps.ports, keeps.recipes⟩, .inr ⟨first, second, whole⟩⟩

end State

/-- Whether a quadrature mode counts a step of one place (R1). -/
def EncoderMode.countsStep (m : EncoderMode) (refA refB newA : Bool) : Bool :=
  match m with
  | .quad4 => true
  | .quad2 => refA != newA
  | .quad1 => refA != newA && !refB
  | _ => false

theorem EncoderMode.countsStep_iff (m : EncoderMode) (refA refB newA : Bool) :
    m.counts refA refB newA ↔ m.countsStep refA refB newA = true := by
  cases m <;> simp [EncoderMode.counts, EncoderMode.countsStep]

/-- R1: the decoding of a change of the phase pair by the places between the pairs. -/
theorem decodePhases_quadrature (m : EncoderMode) (refA refB a b : Bool) (quad : m ≠ .stepDir ∧ m ≠ .upDown) :
    (phasePlace a b - phasePlace refA refB = 1 → m.countsStep refA refB a = true → decodePhases m refA refB a b = .count .forward) ∧
    (phasePlace a b - phasePlace refA refB = 3 → m.countsStep refA refB a = true → decodePhases m refA refB a b = .count .backward) ∧
    (phasePlace a b - phasePlace refA refB = 1 ∨ phasePlace a b - phasePlace refA refB = 3 →
      ¬m.countsStep refA refB a = true → decodePhases m refA refB a b = .noCount) ∧
    (phasePlace a b - phasePlace refA refB = 2 → decodePhases m refA refB a b = .illegal) := by
  revert refA refB a b quad
  cases m <;> decide

theorem decodePhases_same (m : EncoderMode) (a b : Bool) : decodePhases m a b a b = .noCount := by
  revert a b
  cases m <;> decide

theorem decodePhases_stepDir (refA refB a b : Bool) : decodePhases .stepDir refA refB a b =
    if refA = false ∧ a = true then .count (if b then .backward else .forward) else .noCount := by
  revert refA refB a b
  decide

theorem decodePhases_upDown (refA refB a b : Bool) : decodePhases .upDown refA refB a b =
    if refA = false ∧ a = true then if refB = false ∧ b = true then .both else .count .forward
    else if refB = false ∧ b = true then .count .backward else .noCount := by
  revert refA refB a b
  decide

/-- R1 to R3, R5: the decoder in every state. -/
theorem State.decode_decodesTo (s : State) : s.DecodesTo s.decode where
  still sameA sameB := by
    have same : s.compared = s := by rw [State.compared, ← sameA, ← sameB]
    rw [State.decode_of_noCount (by rw [← sameA, ← sameB]; exact decodePhases_same ..), same]
  quadrature notStep notUpDown := by
    obtain ⟨forward, backward, none, illegal⟩ := decodePhases_quadrature s.line.encoderMode s.pos.refA s.pos.refB
      s.pos.phaseA.accepted s.pos.phaseB.accepted ⟨notStep, notUpDown⟩
    dsimp only
    rw [EncoderMode.countsStep_iff]
    exact ⟨fun place counts => State.decode_of_count (forward place counts),
      fun place counts => State.decode_of_count (backward place counts),
      fun place counts => State.decode_of_noCount (none place counts), fun place => State.decode_of_illegal (illegal place)⟩
  stepDirection mode := by
    have decoded := decodePhases_stepDir s.pos.refA s.pos.refB s.pos.phaseA.accepted s.pos.phaseB.accepted
    rw [← mode] at decoded
    dsimp only
    split
    next rise => exact State.decode_of_count (by rw [decoded, if_pos rise])
    next level => exact State.decode_of_noCount (by rw [decoded, if_neg level])
  upDown mode := by
    have decoded := decodePhases_upDown s.pos.refA s.pos.refB s.pos.phaseA.accepted s.pos.phaseB.accepted
    rw [← mode] at decoded
    dsimp only
    refine ⟨fun up down => ?_, fun up down => ?_, fun up down => ?_, fun up down => ?_⟩
    · exact State.decode_of_count (by rw [decoded, if_pos up, if_neg down])
    · exact State.decode_of_count (by rw [decoded, if_neg up, if_pos down])
    · exact State.decode_of_noCount (by rw [decoded, if_neg up, if_neg down])
    · exact State.decode_of_both (by rw [decoded, if_pos up, if_pos down])

/-- The decoder leaves the filters of the phases as they are. -/
theorem State.decode_phases (s : State) :
    s.decode.pos.phaseA = s.pos.phaseA ∧ s.decode.pos.phaseB = s.pos.phaseB := by
  cases decoded : decodePhases s.line.encoderMode s.pos.refA s.pos.refB s.pos.phaseA.accepted s.pos.phaseB.accepted with
  | noCount =>
    rw [State.decode_of_noCount decoded]
    exact ⟨rfl, rfl⟩
  | count d =>
    obtain ⟨-, -, -, phaseA, phaseB⟩ := (State.decode_of_count decoded).1.rest
    exact ⟨phaseA, phaseB⟩
  | both =>
    obtain ⟨n, p, -, ⟨first, second, -⟩ | ⟨first, second, -⟩⟩ := State.decode_of_both decoded
    all_goals
      obtain ⟨-, -, -, phaseA, phaseB⟩ := first.rest
      obtain ⟨-, -, -, phaseA', phaseB'⟩ := second.rest
      exact ⟨phaseA'.trans phaseA, phaseB'.trans phaseB⟩
  | illegal =>
    obtain ⟨v, counted, -, held, -⟩ := State.decode_of_illegal decoded
    rw [held, counted]
    exact ⟨rfl, rfl⟩

theorem exec_encoderPhaseChange (a b : Bool) (s : State) : exec (.encoderPhaseChange a b) s = .next (s.phaseChange a b) := rfl

theorem exec_encoderFilterExpiry (a b : Bool) (s : State) : exec (.encoderFilterExpiry a b) s = .next (s.phaseExpiry a b) := rfl

theorem Phase.expire_eq (x : Phase) (named : Bool) : (if named then x.expire else x) =
    if named = true ∧ x.measuring ≠ none then ⟨x.raw, x.raw, none⟩ else x := by
  cases named with
  | false => simp
  | true => cases measuring : x.measuring <;> simp [Phase.expire, measuring]

/-- Settles O46: the comparison that was left, the filters, and the decoder again (`State.decode_decodesTo`). -/
theorem encoderEventsMoveThePosition : Obligations.EncoderEventsMoveThePosition := by
  unfold Obligations.EncoderEventsMoveThePosition
  refine ⟨fun s a b high => ?_, fun s a b low => ?_, fun s a b => ?_⟩
  · obtain ⟨phaseA, phaseB⟩ := s.decode_phases
    refine ⟨s.decode, s.phaseChange a b, s.decode_decodesTo, exec_encoderPhaseChange a b s, ?_⟩
    rw [State.phaseChange, if_pos high]
    dsimp only
    rw [phaseA, phaseB]
    exact State.decode_decodesTo _
  · rw [exec_encoderPhaseChange, State.phaseChange, if_neg (by rw [low]; exact Bool.false_ne_true)]
  · obtain ⟨phaseA, phaseB⟩ := s.decode_phases
    refine ⟨s.decode, s.phaseExpiry a b, s.decode_decodesTo, exec_encoderFilterExpiry a b s, ?_⟩
    rw [State.phaseExpiry]
    dsimp only
    rw [phaseA, phaseB, ← Phase.expire_eq, ← Phase.expire_eq]
    exact State.decode_decodesTo _

/-! ### A line with nothing to reach (R9) -/

namespace State

/-- There is nothing on the line that a count could reach: no item, no action, no stage entry, and no gap is marked. -/
structure Idle (s : State) : Prop where
  items : s.items.live = []
  stage : s.recipes.stage = []
  schedules : ∀ c, s.schedule c = []
  gaps : ∀ c, (s.channel c).gapFresh = false

theorem Idle.settleGaps {s : State} (idle : s.Idle) : s.settleGaps = s := by
  have channels : s.channels.map (fun ch => { ch with gapFresh := false }) = s.channels := Vector.ext fun c lt => by
    have old : s.channels[c].gapFresh = false := idle.gaps ⟨c, lt⟩
    rw [Vector.getElem_map, ← old]
  rw [State.settleGaps, channels]

/-- On an idle line only the motion, and the excursion that begins, are left to do. -/
theorem Idle.countTasks {s : State} (idle : s.Idle) {d : Direction}
    (near : d = .backward → s.pos.excursion = true ∨ (s.pos.hwp - s.pos.lp).toNat ≤ s.line.reverseAllowance.toNat) :
    s.countTasks d = s.motionTask := by
  cases d with
  | forward =>
    have fires : ∀ c, s.channelTasks c = [] := fun c => by
      simp [State.channelTasks, State.firesAt, State.endsAt, State.actionsOf, idle.schedules]
    have stage : s.stagePointReached = false := by rw [State.stagePointReached, idle.stage]
    simp [State.countTasks, idle.items, stage, fires]
  | backward =>
    have stays : (!s.pos.excursion && decide (s.line.reverseAllowance.toNat < forwardDistance s.pos.lp s.pos.hwp)) = false := by
      obtain runs | close := near rfl
      · rw [runs]; rfl
      · rw [Bool.and_eq_false_iff]
        exact .inr (decide_eq_false (Nat.not_lt.2 close))
    rw [State.countTasks, stays]
    exact List.append_nil _

theorem runTasks_of_nil {k : Nat} {d : Direction} {s : State} (none : s.countTasks d = []) : State.runTasks k d s = s := by
  cases k with
  | zero => rfl
  | succ k => rw [State.runTasks, none]; rfl

theorem runTasks_of_single {k : Nat} {d : Direction} {s : State} {task : CountTask} (one : s.countTasks d = [task]) :
    State.runTasks (k + 1) d s = State.runTasks k d (s.doTask d task) := by
  rw [State.runTasks, one]
  rfl

theorem Idle.counted {s : State} (idle : s.Idle) (d : Direction) : (s.counted d).Idle :=
  ⟨idle.items, idle.stage, idle.schedules, idle.gaps⟩

theorem Idle.startMoving {s : State} (idle : s.Idle) (d : Direction) : (s.startMoving d).Idle where
  items := by rw [State.startMoving, post_items]; exact idle.items
  stage := by rw [State.startMoving, post_recipes]; exact idle.stage
  schedules c := by
    have same : (s.startMoving d).schedule c = s.schedule c := by rw [State.startMoving, post_ports_only]; rfl
    rw [same]
    exact idle.schedules c
  gaps c := by
    have same : (s.startMoving d).channel c = s.channel c := by rw [State.startMoving, post_ports_only]; rfl
    rw [same]
    exact idle.gaps c

/-- A count on an idle line that begins no excursion is the move and, from STILL, the start of the motion. -/
theorem Idle.takeCount {s : State} (idle : s.Idle) {d : Direction}
    (near : d = .backward → (s.counted d).pos.excursion = true ∨
      ((s.counted d).pos.hwp - (s.counted d).pos.lp).toNat ≤ s.line.reverseAllowance.toNat) :
    s.takeCount d = if s.pos.motion = .still then (s.counted d).startMoving d else s.counted d := by
  have motion : (s.counted d).pos.motion = s.pos.motion := by cases d <;> rfl
  have tasks := (idle.counted d).countTasks near
  rw [State.motionTask, motion] at tasks
  rw [takeCount_eq]
  split
  next still =>
    rw [if_pos still] at tasks
    obtain ⟨k, fuel⟩ := Nat.exists_eq_succ_of_ne_zero (show (s.counted d).taskBound ≠ 0 by unfold State.taskBound; omega)
    have moving : ((s.counted d).startMoving d).pos = { (s.counted d).pos with motion := .moving } :=
      doTask_pos (s.counted d) d .motion
    have line : ((s.counted d).startMoving d).line = s.line := by rw [State.startMoving, post_line]; rfl
    have none : ((s.counted d).startMoving d).countTasks d = [] := by
      rw [((idle.counted d).startMoving d).countTasks (by rw [moving, line]; exact near), State.motionTask, moving]
      rfl
    rw [fuel, runTasks_of_single tasks]
    show (State.runTasks k d ((s.counted d).startMoving d)).settleGaps = _
    rw [runTasks_of_nil none, ((idle.counted d).startMoving d).settleGaps]
  next moves =>
    rw [if_neg moves] at tasks
    rw [runTasks_of_nil tasks, (idle.counted d).settleGaps]

/-- What a count does to an idle line on which it begins no excursion (R9). -/
theorem Idle.takeCount_moves {s : State} (idle : s.Idle) (d : Direction) :
    let lp := if d = .forward then s.pos.lp + 1 else s.pos.lp - 1
    let hwp := if d = .forward ∧ s.pos.lp = s.pos.hwp then lp else s.pos.hwp
    (d = .backward → s.pos.excursion = true ∨ (s.pos.hwp - lp).toNat ≤ s.line.reverseAllowance.toNat) →
    let t := s.takeCount d
    t = { s with
      pos := { s.pos with
        lp := lp, hwp := hwp, motion := .moving, standstillTimer := some s.line.standstillTime
        excursion := if d = .forward then s.pos.excursion && lp != hwp else s.pos.excursion }
      ports := t.ports } ∧
    (s.pos.motion = .moving → t.ports = s.ports) ∧ (s.pos.motion = .still → s.Posted t .line 0 lp (.lineMoving d)) := by
  intro lp hwp near
  have counted := s.counted_eq d
  have whole := idle.takeCount (d := d) fun back => by rw [counted]; subst back; exact near rfl
  dsimp only
  rw [whole, counted]
  cases motion : s.pos.motion with
  | still =>
    rw [if_pos rfl, State.startMoving, post_ports_only]
    exact ⟨rfl, nofun, fun _ => post_posted _ _ _ _ rfl⟩
  | moving =>
    rw [if_neg nofun]
    dsimp only
    rw [motion]
    exact ⟨rfl, fun _ => rfl, nofun⟩

theorem decode_count_eq {s : State} {d : Direction}
    (count : decodePhases s.line.encoderMode s.pos.refA s.pos.refB s.pos.phaseA.accepted s.pos.phaseB.accepted = .count d) :
    s.decode = s.compared.takeCount (invertDirection s.line.invert d) := by
  rw [decode, count]
  rfl

end State

theorem exec_standstillTimerExpiry (s : State) : exec .standstillTimerExpiry s = .next s.standstill := rfl

/-- Settles O47: on an idle line the motion is all that a count has to act on (`State.Idle.takeCount_moves`). -/
theorem motionFollowsTheCounts : Obligations.MotionFollowsTheCounts := by
  unfold Obligations.MotionFollowsTheCounts
  refine ⟨fun s => ⟨fun stopped => ?_, fun runs => ?_⟩, ?_, fun s d items stage schedules gaps =>
    State.Idle.takeCount_moves ⟨items, stage, schedules, gaps⟩ d⟩
  · rw [exec_standstillTimerExpiry, State.standstill, stopped]
  · obtain ⟨time, runs⟩ := Option.ne_none_iff_exists'.1 runs
    rw [exec_standstillTimerExpiry, State.standstill, runs]
    exact ⟨_, rfl, State.post_ports_only _ _ _ _, State.post_posted _ _ _ _ rfl⟩
  · intro s high mode straight unfiltered phaseA phaseB refA refB items stage schedules gaps
    have same : s.decode = s := s.decode_decodesTo.still (by rw [refA, phaseA]) (by rw [refB, phaseB])
    have changed : s.phaseChange true false =
        ({ s with pos := { s.pos with phaseA := ⟨true, true, none⟩, phaseB := ⟨false, false, none⟩ } } : State).decode := by
      rw [State.phaseChange, if_pos high]
      dsimp only
      rw [same, phaseA, phaseB, unfiltered]
      rfl
    have counts := State.decode_count_eq (d := .forward)
      (s := { s with pos := { s.pos with phaseA := ⟨true, true, none⟩, phaseB := ⟨false, false, none⟩ } })
      (by rw [mode, refA, refB]; rfl)
    dsimp only at counts
    rw [straight] at counts
    obtain ⟨whole, quiet, posted⟩ := State.Idle.takeCount_moves (s := State.compared
      { s with pos := { s.pos with phaseA := ⟨true, true, none⟩, phaseB := ⟨false, false, none⟩ } })
      ⟨items, stage, schedules, gaps⟩ .forward nofun
    rw [exec_encoderPhaseChange, changed, counts]
    refine ⟨_, rfl, whole.trans ?_, quiet, posted⟩
    rw [State.mk.injEq, PositionCounter.mk.injEq]
    exact ⟨rfl, ⟨rfl, by simp [State.compared], rfl, rfl, rfl, by simp [State.compared], rfl, refB.symm, rfl, phaseB.symm⟩, rfl, rfl, rfl, rfl, rfl, rfl, rfl, rfl, rfl,
      rfl, rfl⟩

end Sys2Proof.Machine
end

section
/-! PROOFS. Which commands and events can change the line position, the configurations and the leases. -/
namespace Sys2Proof.Machine

/-! ### The settings -/

/-- A part of the state that only its own commands and events change. -/
inductive Setting where
  | position | line | inputs | channels | recipes | leases
deriving DecidableEq

/-- The configuration of an input is the same. -/
structure Input.SameConfig (a b : Input) : Prop where
  role : b.role = a.role
  active : b.active = a.active
  filter : b.filter = a.filter
  nominal : b.nominal = a.nominal
  window : b.window = a.window
  onMiss : b.onMiss = a.onMiss

theorem Input.SameConfig.refl (a : Input) : a.SameConfig a := ⟨rfl, rfl, rfl, rfl, rfl, rfl⟩

theorem Input.SameConfig.trans {a b c : Input} (first : a.SameConfig b) (next : b.SameConfig c) : a.SameConfig c :=
  ⟨next.role.trans first.role, next.active.trans first.active, next.filter.trans first.filter,
    next.nominal.trans first.nominal, next.window.trans first.window, next.onMiss.trans first.onMiss⟩

namespace State

/-- One part is as it was. -/
def Same (s t : State) : Setting → Prop
  | .position => t.pos.lp = s.pos.lp
  | .line => t.line = s.line
  | .inputs => ∀ k, (s.input k).SameConfig (t.input k)
  | .channels => ∀ c, (s.channel c).SameConfig (t.channel c)
  | .recipes => ∀ i, (t.recipe i).valid = (s.recipe i).valid ∧ (t.recipe i).body = (s.recipe i).body
  | .leases => t.leases = s.leases

/-- Nothing but the named parts changes. -/
def Touches (may : List Setting) (s t : State) : Prop := ∀ x, x ∉ may → s.Same t x

variable {may : List Setting}

theorem Touches.refl (s : State) : Touches may s s := fun x _ => by
  cases x with
  | position | line | leases => rfl
  | inputs => exact fun _ => .refl _
  | channels => exact fun _ => .refl _
  | recipes => exact fun _ => ⟨rfl, rfl⟩

theorem Touches.trans {s t u : State} (first : Touches may s t) (next : Touches may t u) : Touches may s u := fun x out => by
  have a := first x out
  have b := next x out
  cases x with
  | position | line | leases => exact Eq.trans b a
  | inputs => exact fun k => (a k).trans (b k)
  | channels => exact fun c => (a c).trans (b c)
  | recipes => exact fun i => ⟨(b i).1.trans (a i).1, (b i).2.trans (a i).2⟩

/-- What an event does apart from the settings (`Runs`). -/
theorem Touches.of_runs {k : Prop} {s t : State} (runs : Runs k s t) : Touches may s t := fun x _ => by
  cases x with
  | position => exact runs.lp
  | line => exact runs.line
  | inputs => exact fun j => by unfold State.input; rw [runs.inputs]; exact .refl _
  | channels => exact runs.config
  | recipes => exact runs.body
  | leases => exact runs.leases

theorem Touches.of_ends {s t : State} (ends : s.Ends t) : Touches may s t := .of_runs (k := True) (.of_ends ends)

/-- The blocks outside the settings written. -/
theorem Touches.of_rest {s t : State} (lp : t.pos.lp = s.pos.lp) (line : t.line = s.line) (inputs : t.inputs = s.inputs)
    (channels : t.channels = s.channels) (store : t.recipes.store = s.recipes.store) (leases : t.leases = s.leases) :
    Touches may s t := fun x _ => by
  cases x with
  | position => exact lp
  | line => exact line
  | inputs => exact fun j => by unfold State.input; rw [inputs]; exact .refl _
  | channels => exact fun c => by unfold State.channel; rw [channels]; exact .refl _
  | recipes => exact fun i => by unfold State.recipe; rw [store]; exact ⟨rfl, rfl⟩
  | leases => exact leases

theorem Touches.choose (s : State) (n : Nat) : Touches may s (s.choose n).2 := .of_runs (k := True) (.of_choose s n)

theorem Touches.setPort (s : State) (p : Port) (x : PortState) : Touches may s (s.setPort p x) := .of_rest rfl rfl rfl rfl rfl rfl

theorem Touches.of_updInput (s : State) (k : Fin 8) (f : Input → Input)
    (config : .inputs ∈ may ∨ (s.input k).SameConfig (f (s.input k))) : Touches may s (s.updInput k f) := fun x out => by
  cases x with
  | inputs =>
    intro j
    rw [input_updInput]
    split
    · subst_vars; exact config.resolve_left out
    · exact .refl _
  | position | line | leases => rfl
  | channels => exact fun _ => .refl _
  | recipes => exact fun _ => ⟨rfl, rfl⟩

/-- An input updated outside its configuration. -/
theorem Touches.of_runningInput (s : State) (k : Fin 8) (f : Input → Input) (config : ∀ i : Input, i.SameConfig (f i)) :
    Touches may s (s.updInput k f) := .of_updInput s k f (.inr (config _))

theorem Touches.of_updRecipe (s : State) (i : Fin 8) (f : Recipe → Recipe) (listed : .recipes ∈ may) :
    Touches may s (s.updRecipe i f) := fun x out => by
  cases x with
  | recipes => exact absurd listed out
  | position | line | leases => rfl
  | inputs => exact fun _ => .refl _
  | channels => exact fun _ => .refl _

theorem Touches.of_leases {s t : State} (listed : .leases ∈ may) (rest : t = { s with leases := t.leases, ports := t.ports }) :
    Touches may s t := fun x out => by
  rw [rest]
  cases x with
  | leases => exact absurd listed out
  | position | line => rfl
  | inputs => exact fun _ => .refl _
  | channels => exact fun _ => .refl _
  | recipes => exact fun _ => ⟨rfl, rfl⟩

/-! ### Edges, counts and sessions -/

theorem Touches.takeEdge (s : State) (k : Fin 8) (x : Position) : Touches may s (s.takeEdge k x) := by
  unfold State.takeEdge
  dsimp only
  split
  · exact .of_runningInput s k _ fun _ => ⟨rfl, rfl, rfl, rfl, rfl, rfl⟩
  · refine (Touches.of_runningInput s k (fun i => { i with accepted := !(s.input k).accepted, measurement := none })
      fun _ => ⟨rfl, rfl, rfl, rfl, rfl, rfl⟩).trans (.of_runs (k := True) (.routeEdge _ _ _ _))

theorem Touches.findPin (s : State) (k : Fin 8) : Touches may s (s.findPin k) := by
  unfold State.findPin
  split
  · exact .refl s
  · dsimp only
    split
    · exact (Touches.choose s 2).trans (.of_runningInput _ _ _ fun _ => ⟨rfl, rfl, rfl, rfl, rfl, rfl⟩)
    · exact .choose s 2

theorem Touches.loadInput (s : State) (k : Fin 8) (old : Input) : Touches may s (s.loadInput k old) := by
  unfold State.loadInput
  dsimp only
  split
  · split <;> exact (Touches.choose s 2).trans (.of_runningInput _ _ _ fun _ => ⟨rfl, rfl, rfl, rfl, rfl, rfl⟩)
  · exact .of_runningInput _ _ _ fun _ => ⟨rfl, rfl, rfl, rfl, rfl, rfl⟩

theorem Touches.rerunInput (s : State) (k : Fin 8) (old : Input) : Touches may s (s.rerunInput k old) := by
  unfold State.rerunInput
  dsimp only
  split
  · split
    · exact .refl s
    · exact .of_runningInput _ _ _ fun _ => ⟨rfl, rfl, rfl, rfl, rfl, rfl⟩
  · split
    · exact (Touches.findPin s k).trans (.loadInput _ _ _)
    · split
      · exact .refl s
      · split
        · exact .refl s
        · split
          · exact .takeEdge _ _ _
          · exact .of_runningInput _ _ _ fun _ => ⟨rfl, rfl, rfl, rfl, rfl, rfl⟩

theorem Touches.pinChange (s : State) (k : Fin 8) (level : Bool) : Touches may s (s.pinChange k level) := by
  have moved : Touches may s (s.updInput k fun i => { i with pin := level }) :=
    .of_runningInput s k _ fun _ => ⟨rfl, rfl, rfl, rfl, rfl, rfl⟩
  unfold State.pinChange
  dsimp only
  split
  · exact moved
  · split
    · exact moved.trans (.of_runningInput _ _ _ fun _ => ⟨rfl, rfl, rfl, rfl, rfl, rfl⟩)
    · split
      · exact moved.trans (.takeEdge _ _ _)
      · exact moved.trans (.of_runningInput _ _ _ fun _ => ⟨rfl, rfl, rfl, rfl, rfl, rfl⟩)

theorem Touches.filterExpiry (s : State) (k : Fin 8) : Touches may s (s.filterExpiry k) := by
  unfold State.filterExpiry
  split
  · split
    · exact .refl s
    · exact .takeEdge _ _ _
  · exact .refl s

/-- A count moves the position, and changes no other setting. -/
theorem Touches.takeCount (s : State) (d : Direction) (listed : .position ∈ may) : Touches may s (s.takeCount d) := by
  have moved : Touches may s (s.counted d) := fun x out => by
    cases x with
    | position => exact absurd listed out
    | line | leases => rfl
    | inputs => exact fun _ => .refl _
    | channels => exact fun _ => .refl _
    | recipes => exact fun _ => ⟨rfl, rfl⟩
  have settled : ∀ u : State, Touches may u u.settleGaps := fun u x _ => by
    cases x with
    | position | line | leases => rfl
    | inputs => exact fun _ => .refl _
    | channels => exact fun c => by rw [settleGaps_channel]; exact ⟨rfl, rfl, rfl, rfl⟩
    | recipes => exact fun _ => ⟨rfl, rfl⟩
  rw [takeCount_eq]
  exact (moved.trans (.of_runs (.runTasks _ _ _))).trans (settled _)

theorem Touches.decode (s : State) (listed : .position ∈ may) : Touches may s s.decode := by
  have compared : Touches may s
      { s with pos := { s.pos with refA := s.pos.phaseA.accepted, refB := s.pos.phaseB.accepted } } :=
    .of_rest rfl rfl rfl rfl rfl rfl
  unfold State.decode
  dsimp only
  split
  · exact compared
  · exact compared.trans (.takeCount _ _ listed)
  · split <;> exact ((compared.trans (.choose _ 2)).trans (.takeCount _ _ listed)).trans (.takeCount _ _ listed)
  · exact compared.trans (.of_runs (k := True) (.illegalTransition _))

theorem Touches.setPhases (s : State) (a b : Phase) (listed : .position ∈ may) : Touches may s (s.setPhases a b) :=
  Touches.trans (t := { s with pos := { s.pos with phaseA := a, phaseB := b } }) (.of_rest rfl rfl rfl rfl rfl rfl)
    (.decode _ listed)

theorem Touches.endSession (s : State) (p : Port) (reason : EndReason) (listed : .leases ∈ may) :
    Touches may s (s.endSession p reason) := by
  obtain ⟨u, from_s, -, moved⟩ := s.sessionOrphaned_moved p
  obtain ⟨-, pos, line, inputs, -⟩ := moved.settings
  have orphaned : Touches may u (s.sessionOrphaned p) := fun x _ => by
    cases x with
    | position => exact congrArg PositionCounter.lp pos
    | line => exact line
    | inputs => exact fun j => by unfold State.input; rw [inputs]; exact .refl _
    | channels => exact moved.configuration
    | recipes => exact moved.recipes.2.2
    | leases => exact moved.leases
  rw [endSession_rest]
  exact ((Touches.of_leases listed from_s).trans orphaned).trans (.of_rest rfl rfl rfl rfl rfl rfl)

/-! ### The commands -/

theorem Touches.finish {s : State} {r : Answer} (body : Touches may s r.state) (p : Port) (code seq : Byte) :
    Touches may s (r.finish p code seq) :=
  (body.trans (.setPort _ p _)).trans (.of_ends (Ends.endActions _ _ _))

theorem writeLine_lp (s : State) (c : LineConfig) : (s.writeLine c).pos.lp = s.pos.lp := by
  by_cases mode : s.line.encoderMode = c.encoderMode
  · by_cases filter : s.line.encoderFilter = c.encoderFilter
    · rw [writeLine_same mode filter]
    · rw [writeLine_filter mode filter]
      rfl
  · by_cases filter : s.line.encoderFilter = c.encoderFilter
    · rw [writeLine_mode mode filter]
      rfl
    · obtain ⟨loadedFirst, n, whole⟩ := writeLine_both mode filter
      rw [whole]

theorem Touches.configLineBody (p : Port) (s : State) (params : List Byte) :
    Touches [.line] s (configLineBody p s params).state := by
  refine withBlock_state (.refl s) fun c _ => require_state (.refl s) fun _ => require_state (.refl s) fun _ => ?_
  dsimp only
  split
  · exact .choose s _
  · intro x out
    have written := s.writeLine_settings c
    cases x with
    | line => exact absurd (.head _) out
    | position => exact s.writeLine_lp c
    | leases =>
      show (s.writeLine c).leases = s.leases
      rw [written]
    | inputs =>
      intro k
      show (s.input k).SameConfig ((s.writeLine c).input k)
      rw [written]
      exact .refl _
    | channels =>
      intro k
      show (s.channel k).SameConfig ((s.writeLine c).channel k)
      rw [written]
      exact .refl _
    | recipes =>
      intro i
      show ((s.writeLine c).recipe i).valid = _ ∧ ((s.writeLine c).recipe i).body = _
      rw [written]
      exact ⟨rfl, rfl⟩

theorem Touches.configInputBody (p : Port) (s : State) (params : List Byte) :
    Touches [.inputs] s (configInputBody p s params).state :=
  withBlock_state (.refl s) fun b _ => require_state (.refl s) fun _ => require_state (.refl s) fun _ =>
    require_state (.refl s) fun _ => require_state (.refl s) fun _ =>
    (Touches.of_updInput s b.input _ (.inl (.head _))).trans (.rerunInput _ _ _)

theorem Touches.configChannelBody (p : Port) (s : State) (params : List Byte) :
    Touches [.channels] s (configChannelBody p s params).state := by
  refine withBlock_state (.refl s) fun b _ => require_state (.refl s) fun _ => ?_
  split
  · intro x out
    cases x with
    | channels => exact absurd (.head _) out
    | position | line | leases => rfl
    | inputs => exact fun _ => .refl _
    | recipes => exact fun _ => ⟨rfl, rfl⟩
  · exact .refl s

theorem Touches.setPositionBody (p : Port) (s : State) (params : List Byte) :
    Touches [.position] s (setPositionBody p s params).state := by
  refine withBlock_state (.refl s) fun v _ => require_state (.refl s) fun _ => require_state (.refl s) fun _ =>
    require_state (.refl s) fun _ x out => ?_
  cases x with
  | position => exact absurd (.head _) out
  | line | leases => rfl
  | inputs =>
    intro k
    have shifted : (s.presetPosition v).input k = (s.input k).shiftCapture (v - s.pos.lp) := by
      simp [presetPosition, State.input]
    show (s.input k).SameConfig ((s.presetPosition v).input k)
    rw [shifted]
    exact ⟨rfl, rfl, rfl, rfl, rfl, rfl⟩
  | channels => exact fun _ => .refl _
  | recipes => exact fun _ => ⟨rfl, rfl⟩

theorem Touches.writeRecipeBody (p : Port) (s : State) (params : List Byte) :
    Touches [.recipes] s (writeRecipeBody p s params).state :=
  withBlock_state (.refl s) fun _ _ => require_state (.refl s) fun _ => require_state (.refl s) fun _ =>
    require_state (.refl s) fun _ => require_state (.refl s) fun _ => require_state (.refl s) fun _ =>
    .of_updRecipe _ _ _ (.head _)

theorem Touches.eraseRecipeBody (p : Port) (s : State) (params : List Byte) :
    Touches [.recipes] s (eraseRecipeBody p s params).state :=
  withBlock_state (.refl s) fun _ _ => require_state (.refl s) fun _ => require_state (.refl s) fun _ =>
    .of_updRecipe _ _ _ (.head _)

theorem Touches.stageRecipeBody (p : Port) (s : State) (params : List Byte) :
    Touches may s (stageRecipeBody p s params).state :=
  withBlock_state (.refl s) fun _ _ => require_state (.refl s) fun _ => require_state (.refl s) fun _ =>
    require_state (.refl s) fun _ => require_state (.refl s) fun _ => .of_rest rfl rfl rfl rfl rfl rfl

theorem Touches.cancelStageBody (p : Port) (s : State) (params : List Byte) :
    Touches may s (cancelStageBody p s params).state :=
  withBlock_state (.refl s) fun _ _ => require_state (.refl s) fun _ => require_state (.refl s) fun _ =>
    (Touches.choose s _).trans (.of_rest rfl rfl rfl rfl rfl rfl)

theorem Touches.leaseBody (p : Port) (s : State) (params : List Byte) :
    Touches [.leases] s (leaseBody p s params).state := by
  refine withBlock_state (.refl s) fun b _ => require_state (.refl s) fun _ => ?_
  split
  · exact .of_leases (.head _) rfl
  · split
    · exact .of_leases (.head _) rfl
    · exact .refl s

theorem Touches.releaseBody (p : Port) (s : State) (params : List Byte) :
    Touches [.leases] s (releaseBody p s params).state := by
  refine withBlock_state (.refl s) fun r _ => require_state (.refl s) fun _ => .of_leases (.head _) ?_
  have moved := ((s.updLease r (fun e => e.without p)).runArbiter_arbitrates r).moved
  dsimp only
  rw [moved.rest]
  rfl

theorem Touches.ackBody (p : Port) (s : State) (params : List Byte) : Touches may s (ackBody p s params).state := by
  refine withBlock_state (.refl s) fun serial _ => ?_
  dsimp only
  split
  · exact .refl s
  · exact .setPort s p _

theorem Touches.attachBody (p : Port) (s : State) (params : List Byte) : Touches may s (attachBody p s params).state :=
  require_state (.refl s) fun _ => withBlock_state (.refl s) fun _ _ => .setPort s p _

theorem Touches.portResetBody (p : Port) (s : State) (params : List Byte) :
    Touches [.leases] s (portResetBody p s params).state := by
  refine withBlock_state (.refl s) fun _ _ => ?_
  dsimp only
  split
  · exact .endSession s p .portReset (.head _)
  · exact .setPort s p _

theorem Touches.deviceReset (s : State) (p : Port) : Touches [.position, .leases] s (s.deviceReset p) := fun x out => by
  cases x with
  | position => exact absurd (.head _) out
  | leases => exact absurd (.tail _ (.head _)) out
  | line => rw [Same, deviceReset_eq]
  | inputs =>
    intro k
    rw [deviceReset_input]
    unfold Input.deviceReset
    split <;> exact ⟨rfl, rfl, rfl, rfl, rfl, rfl⟩
  | channels => exact fun c => by rw [deviceReset_channel]; exact ⟨rfl, rfl, rfl, rfl⟩
  | recipes => exact fun i => by rw [deviceReset_recipe]; exact ⟨rfl, rfl⟩

end State

/-- The settings that a command can change. -/
def CommandName.settings : CommandName → List Setting
  | .configLine => [.line]
  | .configInput => [.inputs]
  | .configChannel => [.channels]
  | .writeRecipe | .eraseRecipe => [.recipes]
  | .setPosition => [.position]
  | .resetDevice => [.position, .leases]
  | .lease | .release | .detach | .portReset => [.leases]
  | _ => []

namespace State

theorem Touches.body (name : CommandName) (p : Port) (s : State) (params : List Byte) :
    Touches name.settings s (name.body p s params).state := by
  cases name with
  | attach => exact .attachBody p s params
  | detach => exact withBlock_state (.refl s) fun _ _ => .endSession s p .detach (.head _)
  | portReset => exact .portResetBody p s params
  | status | fetch | readPosition | readChannel | listItems => exact withBlock_state (.refl s) fun _ _ => .refl s
  | ack => exact .ackBody p s params
  | lease => exact .leaseBody p s params
  | release => exact .releaseBody p s params
  | configLine => exact .configLineBody p s params
  | configInput => exact .configInputBody p s params
  | configChannel => exact .configChannelBody p s params
  | writeRecipe => exact .writeRecipeBody p s params
  | eraseRecipe => exact .eraseRecipeBody p s params
  | readRecipe => exact withBlock_state (.refl s) fun _ _ => .of_rest rfl rfl rfl rfl rfl rfl
  | stageRecipe => exact .stageRecipeBody p s params
  | cancelStage => exact .cancelStageBody p s params
  | postAction => exact .of_runs (k := True) (.postActionBody p s params)
  | cancelAction => exact .of_runs (k := True) (.cancelActionBody p s params)
  | clearChannel => exact .of_runs (k := True) (.clearChannelBody p s params)
  | verdict => exact .of_runs (k := True) (.verdictBody p s params)
  | readItem =>
    refine withBlock_state (.refl s) fun n _ => ?_
    split <;> exact .refl s
  | removeItem => exact .of_runs (k := True) (.removeItemBody p s params)
  | purgeLine => exact .of_runs (k := True) (.purgeLineBody p s params)
  | setHold => exact .of_runs (k := True) (.setHoldBody p s params)
  | releaseHold => exact .of_runs (k := True) (.releaseHoldBody p s params)
  | setPosition => exact .setPositionBody p s params
  | resetDevice => exact withBlock_state (.refl s) fun _ _ => require_state (.refl s) fun _ => .deviceReset s p

theorem Touches.row (name : CommandName) (p : Port) (s : State) : Touches name.settings s (effect (name.row p) s) := by
  rw [effect_row]
  obtain same | ⟨code, seq, rest, refused⟩ | ⟨code, seq, params, rest, -, answered⟩ :=
    s.takeCommand_cases p name (!name.takenDetached) (name.body p)
  · rw [same]
    exact .refl s
  · rw [refused]
    exact (Touches.setPort s p _).trans (.setPort _ p _)
  · rw [answered]
    exact (Touches.setPort s p _).trans (.finish (.body name p _ params) p code seq)

/-! ### The events -/

theorem Touches.windowExpiry (s : State) (i : Fin 256) : Touches may s (s.windowExpiry i) := by
  unfold State.windowExpiry
  split
  · split
    · exact .of_ends (.endAction _ _ _)
    · exact .refl s
  · exact .refl s

theorem Touches.of_updChannel (s : State) (c : Fin 16) (f : Channel → Channel) (config : ∀ ch : Channel, ch.SameConfig (f ch)) :
    Touches may s (s.updChannel c f) := fun x _ => by
  cases x with
  | position | line | leases => rfl
  | inputs => exact fun _ => .refl _
  | channels =>
    intro d
    rw [channel_updChannel]
    split
    · subst_vars; exact config _
    · exact .refl _
  | recipes => exact fun _ => ⟨rfl, rfl⟩

theorem Touches.gapExpiry (s : State) (c : Fin 16) : Touches may s (s.gapExpiry c) := by
  have turned : ∀ (t : State) (h : Handle), Touches may t (t.turnOn c h true) := fun t h =>
    (Touches.of_runs (k := True) (.of_updAction t h _)).trans (.of_updChannel _ c _ fun _ => ⟨rfl, rfl, rfl, rfl⟩)
  unfold State.gapExpiry
  dsimp only
  split
  · exact .refl s
  · refine (Touches.of_updChannel s c _ ?_).trans
      (foldl_related (Touches may) Touches.refl (fun _ _ _ => Touches.trans) _ turned _ _)
    exact fun _ => ⟨rfl, rfl, rfl, rfl⟩

end State

/-- The settings that a command or event can change. -/
def settingsOf : Instr → List Setting
  | .configLine _ => [.line]
  | .configInput _ => [.inputs]
  | .configChannel _ => [.channels]
  | .writeRecipe _ | .eraseRecipe _ => [.recipes]
  | .setPosition _ | .encoderPhaseChange _ _ | .encoderFilterExpiry _ _ => [.position]
  | .resetDevice _ => [.position, .leases]
  | .lease _ | .release _ | .detach _ | .portReset _ | .keepaliveExpiry _ => [.leases]
  | .powerOnReset _ => [.position, .line, .inputs, .channels, .recipes, .leases]
  | _ => []

namespace State

theorem Touches.csnFalls (s : State) (p : Port) : Touches may s (s.csnFalls p) := by
  unfold State.csnFalls
  dsimp only
  split
  · exact .refl s
  · split <;> exact .setPort s p _

theorem Touches.copySlot (s : State) (p : Port) : Touches may s (s.copySlot p) := by
  unfold State.copySlot
  dsimp only
  split
  · exact .setPort s p _
  · exact .refl s

theorem Touches.endRead (s : State) (p : Port) (clocked : Nat) : Touches may s (s.endRead p clocked) := by
  unfold State.endRead
  dsimp only
  split
  · split <;> exact .setPort s p _
  · split
    · exact .setPort s p _
    · exact .refl s

theorem Touches.endFrame (s : State) (p : Port) (bytes : List Byte) (partialByte : Bool) :
    Touches may s (s.endFrame p bytes partialByte) := by
  unfold State.endFrame
  dsimp only
  split
  · split <;> exact .setPort s p _
  · split
    · exact .setPort s p _
    · exact .refl s

theorem Touches.takeBadFrame (s : State) (p : Port) : Touches may s (s.takeBadFrame p) := by
  unfold State.takeBadFrame
  split
  · exact .refl s
  · dsimp only
    split
    · exact (Touches.setPort s p _).trans (.setPort _ p _)
    · split
      · exact .refl s
      · exact (Touches.setPort s p _).trans (.setPort _ p _)

theorem Touches.effect (c : Instr) (s : State) : Touches (settingsOf c) s (effect c s) := by
  cases c using Instr.byRow with
  | row name p =>
    have same : settingsOf (name.row p) = name.settings := by cases name <;> rfl
    rw [same]
    exact .row name p s
  | unknownCommand p => exact .takeBadFrame s p
  | read p clocked => exact .endRead s p clocked
  | powerOnReset lowNs => exact fun x out => absurd (by cases x <;> simp [settingsOf]) out
  | encoderPhaseChange a b =>
    show Touches _ s (s.phaseChange a b)
    unfold State.phaseChange
    split
    · exact (Touches.decode s (.head _)).trans (.setPhases _ _ _ (.head _))
    · exact .of_rest rfl rfl rfl rfl rfl rfl
  | encoderFilterExpiry a b => exact (Touches.decode s (.head _)).trans (.setPhases _ _ _ (.head _))
  | standstillTimerExpiry =>
    show Touches _ s s.standstill
    unfold State.standstill
    split
    · exact .refl s
    · exact Touches.trans (t := { s with pos := { s.pos with motion := .still, standstillTimer := none } })
        (.of_rest rfl rfl rfl rfl rfl rfl) (.of_runs (k := True) (.post _ _ _ _))
  | rawTransition k level => exact .pinChange s k level
  | detectFilterExpiry k => exact .filterExpiry s k
  | windowTimerExpiry entry => exact .windowExpiry s entry
  | gapTimerExpiry c => exact .gapExpiry s c
  | keepaliveExpiry p =>
    show Touches _ s (s.keepaliveExpires p)
    unfold State.keepaliveExpires
    split
    · exact .endSession s p .expired (.head _)
    · exact .refl s
  | rstnRise =>
    show Touches _ s s.resetRise
    unfold State.resetRise
    split
    · exact .refl s
    · exact .of_rest rfl rfl rfl rfl rfl rfl
  | csnFall p => exact .csnFalls s p
  | replySlotCopy p => exact .copySlot s p
  | commandFrameEnd p bytes partialByte => exact .endFrame s p bytes partialByte

/-- A part that an event changes is one that it can change. -/
theorem mem_settings_of_not_same {c : Instr} {s t : State} (stepped : exec c s = .next t) {x : Setting} (changed : ¬s.Same t x) :
    x ∈ settingsOf c := by
  rw [exec_eq_effect] at stepped
  exact not_not.1 fun out => changed (Host.Outcome.next.inj stepped ▸ Touches.effect c s x out)

end State

/-- Settles O60: each command and event touches its own settings alone (`State.Touches.effect`). -/
theorem onlyTheirCommandsChangeThem : Obligations.OnlyTheirCommandsChangeThem := by
  unfold Obligations.OnlyTheirCommandsChangeThem
  intro c s t stepped
  have someone : Nonempty Port := ⟨.A⟩
  have may : ∀ x, ¬s.Same t x → x ∈ settingsOf c := fun x => State.mem_settings_of_not_same stepped
  refine ⟨fun changed => ?_, fun changed => ?_, fun ⟨k, changed⟩ => ?_, fun ⟨k, changed⟩ => ?_, fun ⟨i, changed⟩ => ?_,
    fun changed => ?_⟩
  · have listed := may .position changed
    cases c <;> simp [settingsOf] at listed ⊢
  · have listed := may .line changed
    cases c <;> simp [settingsOf] at listed ⊢
  · have listed := may .inputs fun same => by
      have config := same k
      simp [config.role, config.active, config.filter, config.nominal, config.window, config.onMiss] at changed
    cases c <;> simp [settingsOf] at listed ⊢
  · have listed := may .channels fun same => by
      have config := same k
      simp [config.polarity, config.minGap, config.policy, config.span] at changed
    cases c <;> simp [settingsOf] at listed ⊢
  · have listed := may .recipes fun same => by
      obtain ⟨valid, body⟩ := same i
      simp [valid, body] at changed
    cases c <;> simp [settingsOf] at listed ⊢
  · have listed := may .leases changed
    cases c <;> simp [settingsOf] at listed ⊢
end Sys2Proof.Machine
end

section
/-! PROOFS. WRITE_RECIPE (R61 to R63, R196). -/
namespace Sys2Proof.Machine

/-! ### The fields of a template -/

theorem readWidth_eq (k v2 v1 v0 : Byte) : readWidth k v2 v1 v0 =
    if k = 0 then if read24 v2 v1 v0 = 0 then none else some (.counts (read24 v2 v1 v0))
    else if k = 1 then if read24 v2 v1 v0 = 0 ∨ 65535 < (read24 v2 v1 v0).toNat then none
      else some (.time ((read24 v2 v1 v0).setWidth 16))
    else if k = 2 then some .latch else none := by
  by_cases counts : k = 0
  · subst counts; rfl
  · by_cases time : k = 1
    · subst time; rfl
    · by_cases latch : k = 2
      · subst latch; rfl
      · rw [if_neg counts, if_neg time, if_neg latch, readWidth]
        have other : k.toNat ≠ 0 ∧ k.toNat ≠ 1 ∧ k.toNat ≠ 2 :=
          ⟨fun e => counts (BitVec.eq_of_toNat_eq e), fun e => time (BitVec.eq_of_toNat_eq e),
            fun e => latch (BitVec.eq_of_toNat_eq e)⟩
        split <;> simp_all

/-- A width not 0 is read from its kind code and, but for LATCH, its value. -/
theorem readWidth_eq_some {k v2 v1 v0 : Byte} {w : Width} : readWidth k v2 v1 v0 = some w ↔
    (w ≠ .counts 0 ∧ w ≠ .time 0) ∧ k = widthKindCode w ∧ (w ≠ .latch → read24 v2 v1 v0 = widthValue w) := by
  rw [readWidth_eq]
  generalize read24 v2 v1 v0 = v
  cases w with
  | counts n =>
    simp only [widthKindCode, widthValue]
    by_cases kind : k = 0
    · rw [if_pos kind]
      split
      next zero =>
        refine ⟨nofun, fun ⟨⟨nonzero, _⟩, _, value⟩ => absurd ?_ nonzero⟩
        rw [← value nofun, zero]
      next nonzero =>
        constructor
        · rintro ⟨⟩
          exact ⟨⟨fun same => nonzero (Width.counts.inj same), nofun⟩, kind, fun _ => rfl⟩
        · exact fun ⟨_, _, value⟩ => by rw [value nofun]
    · split_ifs <;> simp_all
  | time x =>
    simp only [widthKindCode, widthValue]
    have narrow : v.toNat ≤ 65535 → (v.setWidth 16 = x ↔ v = x.setWidth 24) := fun small =>
      ⟨fun e => by bv_omega, fun e => by bv_omega⟩
    have small : v = x.setWidth 24 → v.toNat ≤ 65535 := fun e => by bv_omega
    have zero : v = x.setWidth 24 → (v = 0 ↔ x = 0) := fun e => ⟨fun z => by bv_omega, fun z => by bv_omega⟩
    by_cases kind : k = 1
    · subst kind
      rw [if_neg (by decide), if_pos rfl]
      split
      next bad =>
        refine ⟨nofun, fun ⟨⟨_, nonzero⟩, _, value⟩ => ?_⟩
        have value := value nofun
        exact bad.elim (fun z => absurd (congrArg Width.time ((zero value).1 z)) nonzero)
          fun large => absurd (small value) (Nat.not_le.2 large)
      next good =>
        obtain ⟨nonzero, large⟩ := not_or.1 good
        have value := narrow (Nat.not_lt.1 large)
        constructor
        · rintro ⟨⟩
          have same := value.1 rfl
          exact ⟨⟨nofun, fun e => nonzero ((zero same).2 (Width.time.inj e))⟩, rfl, fun _ => same⟩
        · exact fun ⟨_, _, same⟩ => by rw [value.2 (same nofun)]
    · split_ifs <;> simp_all
  | latch =>
    simp only [widthKindCode]
    split_ifs <;> simp_all

theorem readConditionByte_eq_some {d : Byte} {c : Condition} : readConditionByte d = some c ↔
    ∃ port : BitVec 2, d = (conditionKindCode c ||| ((c.port.elim (port.setWidth 8) portCode) <<< 4)) := by
  revert d
  cases c with
  | always => decide
  | ifAccept p => cases p <;> decide
  | ifReject p => cases p <;> decide
  | ifAllAccept => decide
  | ifAnyReject => decide

/-- Whatever the ignored value of LATCH is, it is read as LATCH. -/
theorem readWidth_carried {k v2 v1 v0 : Byte} {w : Width} : readWidth k v2 v1 v0 = some w ↔
    (w ≠ .counts 0 ∧ w ≠ .time 0) ∧
      ∃ value, [k, v2, v1, v0] = widthKindCode w :: be24 (if w = .latch then value else widthValue w) := by
  rw [readWidth_eq_some]
  refine and_congr_right fun _ => ?_
  constructor
  · rintro ⟨kind, value⟩
    refine ⟨read24 v2 v1 v0, ?_⟩
    split
    · rw [be24_read24, kind]
    next named => rw [← value named, be24_read24, kind]
  · rintro ⟨value, laidOut⟩
    obtain ⟨kind, bytes⟩ := List.cons.inj laidOut
    refine ⟨kind, fun named => ?_⟩
    rw [if_neg named] at bytes
    exact (be24_eq_iff.1 bytes.symm).symm

/-- A width of no length (R61). -/
def Template.WidthInRange (t : Template) : Prop := t.width ≠ .counts 0 ∧ t.width ≠ .time 0

theorem readTemplate_eq_some {ps : List Byte} {t : Template} : readTemplate ps = some t ↔
    t.WidthInRange ∧ ∃ port value, ps = t.carried port value := by
  constructor
  · intro read
    unfold readTemplate at read
    split at read
    next c f2 f1 f0 k v2 v1 v0 d r t1 t0 =>
      simp only [Option.bind_eq_bind, Option.bind_eq_some_iff] at read
      obtain ⟨channel, readChannel, width, readWidth, condition, readCondition, report, readReport, rest⟩ := read
      cases rest
      obtain ⟨inRange, value, widthBytes⟩ := readWidth_carried.1 readWidth
      obtain ⟨port, conditionByte⟩ := readConditionByte_eq_some.1 readCondition
      refine ⟨inRange, port, value, ?_⟩
      rw [Template.carried, ← readReportPort_eq_some.1 readReport, ← (readIndex_eq_some (by decide)).1 readChannel]
      dsimp only
      rw [be24_read24, be16_read16, ← conditionByte, ← widthBytes]
      rfl
    · cases read
  · rintro ⟨inRange, port, value, rfl⟩
    obtain ⟨f2, f1, f0, fireBytes, fire⟩ := exists_be24 t.fire
    obtain ⟨v2, v1, v0, valueBytes, -⟩ := exists_be24 (if t.width = .latch then value else widthValue t.width)
    obtain ⟨t1, t0, tagBytes, tag⟩ := exists_be16 t.tag
    have width := readWidth_carried.2 ⟨inRange, value, (congrArg (widthKindCode t.width :: ·) valueBytes).symm⟩
    have condition := readConditionByte_eq_some (c := t.condition).2 ⟨port, rfl⟩
    have channel := (readIndex_eq_some (n := 16) (by decide)).2 (Eq.refl (natByte t.channel.val))
    have report := readReportPort_eq_some.2 (Eq.refl (portOrNoneCode t.report))
    rw [Template.carried, fireBytes, valueBytes, tagBytes]
    simp only [List.cons_append, List.nil_append, readTemplate, channel, width, condition, report, Option.bind_eq_bind,
      Option.bind_some, fire, tag]

theorem length_carried (t : Template) (port : BitVec 2) (value : Offset) : (t.carried port value).length = 12 := rfl

theorem readTemplates_eq_some {n : Nat} {ps : List Byte} {ts : List Template} : readTemplates n ps = some ts ↔
    ts.length = n ∧ (∀ t ∈ ts, t.WidthInRange) ∧ ∃ ignored : List (BitVec 2 × Offset), ignored.length = n ∧
      ps = (ts.zip ignored).flatMap (fun x => x.1.carried x.2.1 x.2.2) := by
  induction n generalizing ps ts with
  | zero =>
    constructor
    · intro read
      cases ps with
      | nil => cases read; exact ⟨rfl, nofun, [], rfl, rfl⟩
      | cons b ps => cases read
    · rintro ⟨none, -, ignored, -, rfl⟩
      rw [List.length_eq_zero_iff.1 none]
      rfl
  | succ n ih =>
    simp only [readTemplates, Option.bind_eq_bind, Option.bind_eq_some_iff]
    constructor
    · rintro ⟨x, first, xs, rest, same⟩
      cases same
      obtain ⟨inRange, port, value, front⟩ := readTemplate_eq_some.1 first
      obtain ⟨count, allInRange, ignored, length, back⟩ := ih.1 rest
      refine ⟨by rw [List.length_cons, count], List.forall_mem_cons.2 ⟨inRange, allInRange⟩, (port, value) :: ignored,
        by rw [List.length_cons, length], ?_⟩
      rw [List.zip_cons_cons, List.flatMap_cons, ← back, ← front, List.take_append_drop]
    · rintro ⟨count, allInRange, ignored, length, rfl⟩
      obtain ⟨x, xs, rfl⟩ := List.exists_cons_of_length_eq_add_one count
      obtain ⟨⟨port, value⟩, ignored, rfl⟩ := List.exists_cons_of_length_eq_add_one length
      obtain ⟨inRange, allInRange⟩ := List.forall_mem_cons.1 allInRange
      rw [List.zip_cons_cons, List.flatMap_cons, List.take_left' (length_carried x port value),
        List.drop_left' (length_carried x port value)]
      exact ⟨x, readTemplate_eq_some.2 ⟨inRange, port, value, rfl⟩, xs,
        ih.2 ⟨Nat.succ.inj count, allInRange, ignored, Nat.succ.inj length, rfl⟩, rfl⟩

/-- A voter's fields are read as laid out; those of a port that is none are whatever they are. -/
theorem readVoter_eq_some {voter : Bool} {d2 d1 d0 e : Byte} {offset : Offset} {default_ : VoterDefault} :
    readVoter voter d2 d1 d0 e = some (offset, default_) ↔
      (voter = false → offset = 0 ∧ default_ = .accept) ∧ ∃ spare : Offset × Byte, [d2, d1, d0, e] =
        if voter = true then be24 offset ++ [voterDefaultCode default_] else be24 spare.1 ++ [spare.2] := by
  cases voter with
  | false =>
    constructor
    · intro read
      cases read
      exact ⟨fun _ => ⟨rfl, rfl⟩, (read24 d2 d1 d0, e), by rw [if_neg Bool.false_ne_true, be24_read24]; rfl⟩
    · rintro ⟨stored, -⟩
      obtain ⟨rfl, rfl⟩ := stored rfl
      rfl
  | true =>
    simp only [readVoter, if_true, Option.map_eq_some_iff, Prod.mk.injEq]
    constructor
    · rintro ⟨x, read, rfl, rfl⟩
      exact ⟨nofun, (0, 0), by rw [be24_read24, readVoterDefault_eq_some.1 read]; rfl⟩
    · rintro ⟨-, -, laidOut⟩
      obtain ⟨o2, o1, o0, bytes, value⟩ := exists_be24 offset
      rw [bytes] at laidOut
      injection laidOut with e2 rest
      injection rest with e1 rest
      injection rest with e0 rest
      injection rest with code
      exact ⟨default_, readVoterDefault_eq_some.2 code, by rw [e2, e1, e0, value], rfl⟩

/-- The four bytes that a block carries for one port, and what they are read as. -/
theorem exists_voterBytes {voter : Bool} {offset : Offset} {default_ : VoterDefault}
    (stored : voter = false → offset = 0 ∧ default_ = .accept) (spare : Offset × Byte) : ∃ d2 d1 d0 e,
      (if voter = true then be24 offset ++ [voterDefaultCode default_] else be24 spare.1 ++ [spare.2]) = [d2, d1, d0, e] ∧
        readVoter voter d2 d1 d0 e = some (offset, default_) := by
  cases voter with
  | true =>
    obtain ⟨d2, d1, d0, bytes, -⟩ := exists_be24 offset
    refine ⟨d2, d1, d0, voterDefaultCode default_, by rw [if_pos rfl, bytes]; rfl, ?_⟩
    exact readVoter_eq_some.2 ⟨stored, (0, 0), by rw [if_pos rfl, bytes]; rfl⟩
  | false =>
    obtain ⟨d2, d1, d0, bytes, -⟩ := exists_be24 spare.1
    refine ⟨d2, d1, d0, spare.2, by rw [if_neg Bool.false_ne_true, bytes]; rfl, ?_⟩
    exact readVoter_eq_some.2 ⟨stored, spare, by rw [if_neg Bool.false_ne_true, bytes]; rfl⟩

/-! ### The block -/

/-- The four bytes that a block carries for the port `q`. -/
def RecipeBody.voterBytes (b : RecipeBody) (spare : PerPort (Offset × Byte)) (q : Port) : List Byte :=
  if b.voter.get q = true then be24 (b.decision.get q) ++ [voterDefaultCode (b.default_.get q)]
  else be24 (spare.get q).1 ++ [(spare.get q).2]

theorem length_voterBytes (b : RecipeBody) (spare : PerPort (Offset × Byte)) (q : Port) :
    (b.voterBytes spare q).length = 4 := by
  rw [RecipeBody.voterBytes]; split <;> rfl

theorem carried_of_voterBytes {b : RecipeBody} {i : Fin 8} {spare : PerPort (Offset × Byte)}
    {ignored : List (BitVec 2 × Offset)} {x y z : List Byte} (bytesA : x = b.voterBytes spare .A)
    (bytesB : y = b.voterBytes spare .B) (bytesC : z = b.voterBytes spare .C) : b.carried i spare ignored =
      natByte i.val :: natByte b.templates.length :: be24 b.lengthMin ++ be24 b.lengthMax ++ lengthPolicyCode b.policy ::
        flagsFrom [b.voter.a, b.voter.b, b.voter.c] :: (x ++ y ++ z) ++
        (b.templates.zip ignored).flatMap (fun x => x.1.carried x.2.1 x.2.2) := by
  rw [bytesA, bytesB, bytesC]; rfl

/-- What the block reader takes is a block of a body as R58 stores it and within its ranges. -/
theorem readRecipeBlock_carried {params : List Byte} {block : RecipeBlock} (read : readRecipeBlock params = some block) :
    block.body.Stored ∧ block.body.InRange ∧ ∃ spare ignored, ignored.length = block.body.templates.length ∧
      params = block.body.carried block.index spare ignored := by
  unfold readRecipeBlock at read
  split at read
  next i t m2 m1 m0 x2 x1 x0 y v a2 a1 a0 ad b2 b1 b0 bd c2 c1 c0 cd rest =>
    simp only [Option.bind_eq_bind, Option.bind_eq_some_iff] at read
    obtain ⟨index, indexRead, count, countRead, policy, policyRead, ⟨va, vb, vc⟩, votersRead, ⟨da, ea⟩, aRead, ⟨db, eb⟩,
      bRead, ⟨dc, ec⟩, cRead, templates, templatesRead, limits⟩ := read
    split at limits
    · cases limits
    next ordered =>
      cases limits
      obtain ⟨storedA, spareA, bytesA⟩ := readVoter_eq_some.1 aRead
      obtain ⟨storedB, spareB, bytesB⟩ := readVoter_eq_some.1 bRead
      obtain ⟨storedC, spareC, bytesC⟩ := readVoter_eq_some.1 cRead
      obtain ⟨length, widths, ignored, ignoredLength, templateBytes⟩ := readTemplates_eq_some.1 templatesRead
      refine ⟨fun q => ?_, ⟨widths, ordered⟩, ⟨spareA, spareB, spareC⟩, ignored, ignoredLength.trans length.symm, ?_⟩
      · cases q with
        | A => exact storedA
        | B => exact storedB
        | C => exact storedC
      · refine Eq.trans ?_ (carried_of_voterBytes bytesA bytesB bytesC).symm
        dsimp only
        rw [← templateBytes, be24_read24, be24_read24,
          ← (readIndex_eq_some (by decide)).1 indexRead, length, ← (readIndex_eq_some (by decide)).1 countRead,
          ← readLengthPolicy_eq_some.1 policyRead, ← readThreeBits_eq_some.1 votersRead]
        rfl
  · cases read

/-- A block with at most 8 templates is read as the body that it carries. -/
theorem readRecipeBlock_of_carried {b : RecipeBody} (stored : b.Stored) (inRange : b.InRange) (few : b.templates.length ≤ 8)
    (i : Fin 8) (spare : PerPort (Offset × Byte)) {ignored : List (BitVec 2 × Offset)}
    (length : ignored.length = b.templates.length) : readRecipeBlock (b.carried i spare ignored) = some ⟨i, b⟩ := by
  obtain ⟨widths, ordered⟩ := inRange
  obtain ⟨m2, m1, m0, minBytes, lengthMin⟩ := exists_be24 b.lengthMin
  obtain ⟨x2, x1, x0, maxBytes, lengthMax⟩ := exists_be24 b.lengthMax
  obtain ⟨a2, a1, a0, ad, bytesA, readA⟩ := exists_voterBytes (stored .A) (spare.get .A)
  obtain ⟨b2, b1, b0, bd, bytesB, readB⟩ := exists_voterBytes (stored .B) (spare.get .B)
  obtain ⟨c2, c1, c0, cd, bytesC, readC⟩ := exists_voterBytes (stored .C) (spare.get .C)
  have index := (readIndex_eq_some (n := 8) (by decide)).2 (Eq.refl (natByte i.val))
  have count := (readIndex_eq_some (n := 9) (i := ⟨b.templates.length, by omega⟩) (by decide)).2 rfl
  have policy := readLengthPolicy_eq_some.2 (Eq.refl (lengthPolicyCode b.policy))
  have voters := (readThreeBits_eq_some (x := (b.voter.a, b.voter.b, b.voter.c))).2 rfl
  have templates := readTemplates_eq_some.2 ⟨rfl, widths, ignored, length, rfl⟩
  rw [carried_of_voterBytes bytesA.symm bytesB.symm bytesC.symm, minBytes, maxBytes]
  simp only [PerPort.get] at readA readB readC
  simp only [List.cons_append, List.nil_append, readRecipeBlock, index, count, policy, voters, readA, readB, readC,
    templates, Option.bind_eq_bind, Option.bind_some, lengthMin, lengthMax]
  exact if_neg ordered

/-- A frame holds a block of at most 8 templates: 22 bytes, and 12 for each. -/
theorem length_templates_of_carried {b : RecipeBody} {i : Fin 8} {spare : PerPort (Offset × Byte)}
    {ignored : List (BitVec 2 × Offset)} (length : ignored.length = b.templates.length)
    (short : (b.carried i spare ignored).length ≤ 128) : b.templates.length ≤ 8 := by
  have offset : ∀ x, (be24 x).length = 3 := fun _ => rfl
  have templateBytes : ∀ (ts : List Template) (ignored : List (BitVec 2 × Offset)), ignored.length = ts.length →
      ((ts.zip ignored).flatMap (fun x => x.1.carried x.2.1 x.2.2)).length = 12 * ts.length := fun ts ignored length => by
    simp only [List.length_flatMap, length_carried, List.map_const', List.sum_replicate, List.length_zip, length]
    simp [Nat.mul_comm]
  rw [carried_of_voterBytes rfl rfl rfl] at short
  simp only [List.length_append, List.length_cons, offset, length_voterBytes, templateBytes _ _ length] at short
  omega

/-! ### The checks (R61, R62) -/

theorem forall_ports3 {P : Port → Prop} : (∀ q ∈ ports3, P q) ↔ ∀ q, P q :=
  ⟨fun h q => h q (by cases q <;> decide), fun h q _ => h q⟩

theorem withinExit_iff (exit : Nat) (b : RecipeBody) : withinExit exit b = true ↔
    (∀ q, b.voter.get q = true → (b.decision.get q).toNat < exit) ∧ ∀ x ∈ b.templates, x.fire.toNat < exit := by
  have voters : (∀ q ∈ ports3, (!b.voter.get q || decide ((b.decision.get q).toNat < exit)) = true) ↔
      ∀ q, b.voter.get q = true → (b.decision.get q).toNat < exit := by
    rw [forall_ports3]
    simp only [Bool.or_eq_true, Bool.not_eq_true', decide_eq_true_eq, ← Bool.not_eq_true, imp_iff_not_or]
  simp only [withinExit, Bool.and_eq_true, List.all_eq_true, voters, decide_eq_true_eq]

theorem namesVoter_iff (b : RecipeBody) (c : Condition) :
    namesVoter b c = true ↔ ∀ q, c.port = some q → b.voter.get q = true := by
  rw [namesVoter, conditionPort_eq]
  cases c.port with
  | none => exact ⟨fun _ => nofun, fun _ => rfl⟩
  | some q => exact ⟨fun votes _ same => Option.some.inj same ▸ votes, fun h => h q rfl⟩

theorem mem_conditionVoters (b : RecipeBody) (c : Condition) (q : Port) : q ∈ conditionVoters b c ↔ c.dependsOn b q := by
  have all : q ∈ ports3 := by cases q <;> decide
  cases c <;> simp [conditionVoters, Condition.dependsOn, all]

theorem afterDecisions_iff (b : RecipeBody) (fire : Offset) (c : Condition) :
    afterDecisions b fire c = true ↔ ∀ q, c.dependsOn b q → (b.decision.get q).toNat < fire.toNat := by
  simp only [afterDecisions, List.all_eq_true, mem_conditionVoters, decide_eq_true_eq]

/-! ### The command -/

theorem writeRecipeBody_of_block {params : List Byte} {i : Fin 8} {b : RecipeBody}
    (read : readRecipeBlock params = some ⟨i, b⟩) (p : Port) (s : State) : writeRecipeBody p s params =
      (require s (s.holdsExclusive p (resRecipe i)) .notLeased <|
      require s ((s.recipe i).refCount = 0) .inUse <|
      require s (withinExit s.line.exitDistance.toNat b) .badParameter <|
      require s (b.templates.all (fun t => namesVoter b t.condition)) .notVoter <|
      require s (b.templates.all (fun t => afterDecisions b t.fire t.condition)) .order
        ⟨s.updRecipe i (fun r => { r with valid := true, body := b }), .ok,
          [natByte i.val, natByte b.templates.length, flagByte (s.recipe i).valid], []⟩) :=
  withBlock_of_some read s _

/-- Settles O28: the block is read exactly when it is laid out for a body within its ranges, and then the checks of R61
and R62 follow one after another. -/
theorem writeRecipeChecksAndStoresTheBody : Obligations.WriteRecipeChecksAndStoresTheBody := by
  unfold Obligations.WriteRecipeChecksAndStoresTheBody
  intro s p seq params rest waits attached
  have answer : exec (.writeRecipe p) s = .next ((writeRecipeBody p (s.taking p rest) params).finish p 0x30 seq) :=
    exec_attached waits attached rfl
  dsimp only
  rw [answer]
  refine ⟨fun other => ?_, fun i b spare ignored laidOut stored inRange length => ?_⟩
  · have unread : ∀ block, readRecipeBlock params ≠ some block := fun block read => by
      obtain ⟨stored, inRange, spare, ignored, length, laidOut⟩ := readRecipeBlock_carried read
      exact other _ _ spare ignored stored inRange length laidOut
    rw [writeRecipeBody, withBlock_of_unread unread, finish_refuse]
  have few := length_templates_of_carried length (laidOut ▸ waits.1)
  have read : readRecipeBlock params = some ⟨i, b⟩ :=
    laidOut ▸ readRecipeBlock_of_carried stored inRange few i spare length
  rw [writeRecipeBody_of_block read]
  have leasedIff := (s.taking p rest).holdsExclusive_iff p (resRecipe i)
  have freeIff := decide_eq_true_iff (p := ((s.taking p rest).recipe i).refCount = 0)
  have withinIff := withinExit_iff (s.taking p rest).line.exitDistance.toNat b
  have votersIff : b.templates.all (fun t => namesVoter b t.condition) = true ↔
      ∀ x ∈ b.templates, ∀ q, x.condition.port = some q → b.voter.get q = true := by
    simp only [List.all_eq_true, namesVoter_iff]
  have orderedIff : b.templates.all (fun t => afterDecisions b t.fire t.condition) = true ↔
      ∀ x ∈ b.templates, ∀ q, x.condition.dependsOn b q → (b.decision.get q).toNat < x.fire.toNat := by
    simp only [List.all_eq_true, afterDecisions_iff]
  refine ⟨fun unleased => ?_, fun leased used => ?_, fun leased free far => ?_, fun leased free within none => ?_,
    fun leased free within voters early => ?_, fun leased free within voters ordered => ?_⟩
  · rw [require_of_fail (mt leasedIff.1 unleased), finish_refuse]
  · rw [require_of_pass (leasedIff.2 leased), require_of_fail (mt freeIff.1 used), finish_refuse]
  · rw [require_of_pass (leasedIff.2 leased), require_of_pass (freeIff.2 free), require_of_fail (mt withinIff.1 far),
      finish_refuse]
  · rw [require_of_pass (leasedIff.2 leased), require_of_pass (freeIff.2 free), require_of_pass (withinIff.2 within),
      require_of_fail (mt votersIff.1 none), finish_refuse]
  · rw [require_of_pass (leasedIff.2 leased), require_of_pass (freeIff.2 free), require_of_pass (withinIff.2 within),
      require_of_pass (votersIff.2 voters), require_of_fail (mt orderedIff.1 early), finish_refuse]
  · rw [require_of_pass (leasedIff.2 leased), require_of_pass (freeIff.2 free), require_of_pass (withinIff.2 within),
      require_of_pass (votersIff.2 voters), require_of_pass (orderedIff.2 ordered), Answer.finish_of_no_skipped]
    rfl

end Sys2Proof.Machine
end

section
/-! PROOFS. POST_ACTION: its block and its checks (R81, R82). -/
namespace Sys2Proof.Machine

/-! ### The block (R81) -/

theorem readCondition_eq (d p : Byte) : readCondition d p =
    if d = 0 then some .always else if d = 1 then (readPort p).map .ifAccept
    else if d = 2 then (readPort p).map .ifReject else if d = 3 then some .ifAllAccept
    else if d = 4 then some .ifAnyReject else none := by
  by_cases assigned : d = 0 ∨ d = 1 ∨ d = 2 ∨ d = 3 ∨ d = 4
  · rcases assigned with rfl | rfl | rfl | rfl | rfl <;> rfl
  · obtain ⟨n0, n1, n2, n3, n4⟩ : d ≠ 0 ∧ d ≠ 1 ∧ d ≠ 2 ∧ d ≠ 3 ∧ d ≠ 4 := by simpa using assigned
    rw [if_neg n0, if_neg n1, if_neg n2, if_neg n3, if_neg n4, readCondition]
    have large : 4 < d.toNat := by bv_omega
    split <;> [omega; omega; omega; omega; omega; rfl]

/-- A condition is read from its kind code and, for a kind that names one, its port; for another any byte does. -/
theorem readCondition_eq_some {d p : Byte} {x : Condition} :
    readCondition d p = some x ↔ d = conditionKindCode x ∧ ∃ q, p = x.port.elim q portCode := by
  rw [readCondition_eq]
  cases x <;> simp only [conditionKindCode, Condition.port, Option.elim] <;> split_ifs <;>
    simp_all [readPort_eq_some]

/-- What the block reader takes is the block of an item number and a width that are not 0. -/
theorem readPostBlock_laidOut {params : List Byte} {b : PostBlock} (read : readPostBlock params = some b) :
    (b.item ≠ 0 ∧ b.width ≠ .counts 0 ∧ b.width ≠ .time 0) ∧
      ∃ v q, params = postBlock b.item b.channel b.fire b.width v b.condition q b.tag := by
  unfold readPostBlock at read
  split at read
  next i1 i0 c f2 f1 f0 k v2 v1 v0 d p t1 t0 =>
    simp only [Option.bind_eq_bind, Option.bind_eq_some_iff, readItemNumber] at read
    obtain ⟨item, itemRead, channel, channelRead, width, widthRead, condition, conditionRead, same⟩ := read
    cases same
    split at itemRead
    · cases itemRead
    next nonzero =>
      cases itemRead
      obtain ⟨widthInRange, v, widthBytes⟩ := readWidth_carried.1 widthRead
      obtain ⟨kind, q, port⟩ := readCondition_eq_some.1 conditionRead
      refine ⟨⟨nonzero, widthInRange⟩, v, q, ?_⟩
      obtain ⟨kindByte, valueBytes⟩ := List.cons.inj widthBytes
      rw [postBlock, be16_read16, be16_read16, be24_read24, ← (readIndex_eq_some (by decide)).1 channelRead, ← kindByte,
        ← valueBytes, ← kind, ← port]
      rfl
  · cases read

/-- What the block reader makes of a block: an item number and a width of 0 are refused, and nothing else. -/
theorem readPostBlock_postBlock (n : Half) (c : Fin 16) (fire : Offset) (w : Width) (v : Offset) (x : Condition) (q : Byte)
    (tag : Half) : readPostBlock (postBlock n c fire w v x q tag) =
      if n ≠ 0 ∧ w ≠ .counts 0 ∧ w ≠ .time 0 then some ⟨n, c, fire, w, x, tag⟩ else none := by
  obtain ⟨n1, n0, itemBytes, item⟩ := exists_be16 n
  obtain ⟨f2, f1, f0, fireBytes, point⟩ := exists_be24 fire
  obtain ⟨v2, v1, v0, valueBytes, -⟩ := exists_be24 (if w = .latch then v else widthValue w)
  obtain ⟨t1, t0, tagBytes, tagRead⟩ := exists_be16 tag
  have channel := (readIndex_eq_some (n := 16) (by decide)).2 (Eq.refl (natByte c.val))
  have condition := readCondition_eq_some (x := x).2 ⟨rfl, q, rfl⟩
  have width : readWidth (widthKindCode w) v2 v1 v0 = if w ≠ .counts 0 ∧ w ≠ .time 0 then some w else none := by
    split
    next inRange => exact readWidth_carried.2 ⟨inRange, v, (congrArg (widthKindCode w :: ·) valueBytes).symm⟩
    next zero =>
      have value : read24 v2 v1 v0 = if w = .latch then v else widthValue w := be24_eq_iff.1 valueBytes |>.symm
      rcases not_and_or.1 zero with zero | zero <;> rw [not_not.1 zero] at value ⊢ <;> rw [readWidth_eq, value] <;> rfl
  rw [postBlock, itemBytes, fireBytes, valueBytes, tagBytes]
  simp only [List.cons_append, List.nil_append, readPostBlock, readItemNumber, channel, condition, width, item, point,
    tagRead, Option.bind_eq_bind]
  by_cases nonzero : n = 0
  · rw [if_pos nonzero]
    exact (if_neg fun h : n ≠ 0 ∧ _ => h.1 nonzero).symm
  · rw [if_neg nonzero]
    by_cases inRange : w ≠ .counts 0 ∧ w ≠ .time 0
    · rw [if_pos inRange, if_pos ⟨nonzero, inRange⟩]; rfl
    · rw [if_neg inRange, if_neg fun h => inRange h.2]; rfl

/-! ### The checks (R82) -/

theorem postActionBody_of_block {params : List Byte} {b : PostBlock} (read : readPostBlock params = some b) (p : Port)
    (s : State) : postActionBody p s params = requireChannel s p b.channel
      (match s.postable b.item with
      | none => refuse s .noItem
      | some it => s.postOn p b it) :=
  withBlock_of_some read s _

theorem postable_of_none {s : State} {n : Half} (none : ∀ it, s.item? n = some it → it.state = .leaving) :
    s.postable n = .none := by
  refine Option.filter_eq_none_iff.2 fun it found => ?_
  simp [none it found]

theorem postable_of_item {s : State} {n : Half} {it : Item} (found : s.item? n = some it) (stays : it.state ≠ .leaving) :
    s.postable n = some it :=
  Option.filter_eq_some_iff.2 ⟨found, decide_eq_true stays⟩

/-- Checks 3 to 8 of R82 in the words of the claims, and what follows them. -/
theorem postOn_eq (s : State) (p : Port) (b : PostBlock) (it : Item) : s.postOn p b it =
    (require s (b.fire.toNat < s.line.exitDistance.toNat) .badParameter <|
    require s (isAhead s.pos.lp (it.base + b.fire.setWidth 32)) .past <|
    require s (namesVoter (s.recipe it.recipe).body b.condition) .notVoter <|
    require s (afterDecisions (s.recipe it.recipe).body b.fire b.condition) .order <|
    require s (it.actions.length < 16) .itemLimit <|
    require s (!s.actions.freeList.isEmpty) .noSpace <|
      s.conflictOrPost p b (decideCondition it.slots b.condition) (it.base + b.fire.setWidth 32)) := by
  rw [← State.plusCounts_offset]
  rfl

/-- Settles O34: the block, the lease and the item, and then the checks of `State.postOn` one after another. -/
theorem postActionChecksInTheirOrder : Obligations.PostActionChecksInTheirOrder := by
  unfold Obligations.PostActionChecksInTheirOrder
  intro s p seq params rest waits attached
  have answer : exec (.postAction p) s = .next ((postActionBody p (s.taking p rest) params).finish p 0x40 seq) :=
    exec_attached waits attached rfl
  dsimp only
  rw [answer]
  refine ⟨fun other => ?_, ?_⟩
  · have unread : ∀ b, readPostBlock params ≠ some b := fun b read => by
      obtain ⟨-, v, q, laidOut⟩ := readPostBlock_laidOut read
      exact other _ _ _ _ v _ q _ laidOut
    rw [postActionBody, withBlock_of_unread unread, finish_refuse]
  rintro n c fire w v x q tag rfl
  have read := readPostBlock_postBlock n c fire w v x q tag
  refine ⟨fun zero => ?_, fun inRange => ?_⟩
  · rw [if_neg zero] at read
    rw [postActionBody, withBlock_of_none read, finish_refuse]
  rw [if_pos inRange] at read
  rw [postActionBody_of_block read]
  refine ⟨fun unleased elsewhere => ?_, fun unleased nowhere => ?_, fun leased none => ?_, fun it leased found stays => ?_⟩
  · rw [requireChannel_of_elsewhere (s := s.taking p rest) unleased elsewhere, finish_refuse]
  · rw [requireChannel_of_unleased (s := s.taking p rest) unleased nowhere, finish_refuse]
  · rw [requireChannel_of_leased (s := s.taking p rest) leased, postable_of_none (s := s.taking p rest) none, finish_refuse]
  rw [requireChannel_of_leased (s := s.taking p rest) leased, postable_of_item (s := s.taking p rest) found stays]
  have aheadIff := (s.taking p rest).isAhead_iff (it.base + fire.setWidth 32)
  have voterIff := namesVoter_iff ((s.taking p rest).recipe it.recipe).body x
  have orderIff := afterDecisions_iff ((s.taking p rest).recipe it.recipe).body fire x
  have nearIff := decide_eq_true_iff (p := fire.toNat < (s.taking p rest).line.exitDistance.toNat)
  dsimp only
  rw [postOn_eq]
  dsimp only
  refine ⟨fun far => ?_, fun near gone => ?_, fun near ahead none => ?_, fun near ahead voter early => ?_,
    fun near ahead voter order full => ?_, fun near ahead voter order few none => ?_⟩
  · rw [require_of_fail (mt nearIff.1 far), finish_refuse]
  · rw [require_of_pass (nearIff.2 near), require_of_fail (mt aheadIff.1 gone), finish_refuse]
  · rw [require_of_pass (nearIff.2 near), require_of_pass (aheadIff.2 ahead), require_of_fail (mt voterIff.1 none),
      finish_refuse]
  · rw [require_of_pass (nearIff.2 near), require_of_pass (aheadIff.2 ahead), require_of_pass (voterIff.2 voter),
      require_of_fail (mt orderIff.1 early), finish_refuse]
  · rw [require_of_pass (nearIff.2 near), require_of_pass (aheadIff.2 ahead), require_of_pass (voterIff.2 voter),
      require_of_pass (orderIff.2 order), require_of_fail (mt of_decide_eq_true (Nat.not_lt.2 full)), finish_refuse]
  · rw [require_of_pass (nearIff.2 near), require_of_pass (aheadIff.2 ahead), require_of_pass (voterIff.2 voter),
      require_of_pass (orderIff.2 order), require_of_pass (decide_eq_true few), require_of_fail (by simp [none]),
      finish_refuse]

end Sys2Proof.Machine
end

section
/-! PROOFS. POST_ACTION: the conflict check and the binding (R83 to R86). -/
namespace Sys2Proof.Machine
namespace State

/-! ### The conflict check (R85, R86) -/

variable {s : State} {c : Fin 16} {y : Poster} {x : Position} {w : Width}

theorem conflictCheck_of_free (free : s.conflicts c x w = [] ∨ (s.channel c).policy = .merge) :
    s.conflictCheck c y x w = .accepted [] := by
  unfold State.conflictCheck
  rw [overlapping_eq]
  cases overlaps : s.conflicts c x w with
  | nil => rfl
  | cons first more =>
    dsimp only
    rw [free.resolve_left (by rw [overlaps]; exact List.cons_ne_nil _ _)]

theorem conflictCheck_of_refuse {first : Action} {more : List Action} (overlaps : s.conflicts c x w = first :: more)
    (policy : (s.channel c).policy = .refuse) : s.conflictCheck c y x w = .overlap first := by
  unfold State.conflictCheck
  rw [overlapping_eq, overlaps]
  dsimp only
  rw [policy]

/-- The poster's action displaces those that it overlaps: none is FIRING, and the poster outranks each (R86). -/
def Displaces (s : State) (y : Poster) (overlaps : List Action) : Prop :=
  ∀ a ∈ overlaps, a.state ≠ .on ∧ a.state ≠ .waitGap ∧ s.rankOf y < s.rankOf a.poster

theorem displaces_iff {overlaps : List Action} :
    overlaps.all (fun a => !a.firing && s.posterRank y < s.posterRank a.poster) = true ↔ s.Displaces y overlaps := by
  simp only [List.all_eq_true, Bool.and_eq_true, notFiring_iff, decide_eq_true_eq, posterRank_eq, and_assoc, Displaces]

theorem conflictCheck_of_displaces {first : Action} {more : List Action} (overlaps : s.conflicts c x w = first :: more)
    (policy : (s.channel c).policy = .priority) (displaces : s.Displaces y (s.conflicts c x w)) :
    s.conflictCheck c y x w = .accepted ((s.conflicts c x w).map Action.handle) := by
  unfold State.conflictCheck
  rw [overlapping_eq, overlaps]
  dsimp only
  rw [policy]
  exact if_pos (displaces_iff.2 (overlaps ▸ displaces))

theorem conflictCheck_of_outranked {first : Action} {more : List Action} (overlaps : s.conflicts c x w = first :: more)
    (policy : (s.channel c).policy = .priority) (outranked : ¬s.Displaces y (s.conflicts c x w)) :
    s.conflictCheck c y x w = .overlap first := by
  unfold State.conflictCheck
  rw [overlapping_eq, overlaps]
  dsimp only
  rw [policy]
  exact if_neg (mt displaces_iff.1 (overlaps ▸ outranked))

/-! ### The binding (R83) -/

theorem bindAction_of_free (free : s.actions.freeList ≠ []) (r : BindRequest) : ∃ h t, s.bindAction r = some (h, t) := by
  unfold State.bindAction
  obtain ⟨i, rest, list⟩ := List.exists_cons_of_ne_nil free
  rw [list]
  exact ⟨_, _, rfl⟩

/-- With a free entry a post is taken: the displacement, the binding and the reply. -/
theorem takePost_bound (free : s.actions.freeList ≠ []) (p : Port) (b : PostBlock) (cond : CondState) (point : Position)
    (displaced : List Handle) : ∃ h u,
      (s.displace displaced).Bound u h ((postRequest p b cond).record h s.actions.bindCount) ∧
        s.takePost p b cond point displaced =
          ⟨u, .ok, be16 h ++ [condStateCode cond] ++ be32 point ++ [natByte displaced.length],
            if cond = .fails then [h] else []⟩ := by
  have ends : s.Ends (s.displace displaced) := .endActions s .displaced displaced
  obtain ⟨h, u, binds⟩ := bindAction_of_free (fun none => free (List.prefix_nil.1 (none ▸ ends.freeList)))
    (postRequest p b cond)
  refine ⟨h, u, ends.bindCount ▸ bindAction_bound binds, ?_⟩
  unfold State.takePost
  rw [binds, List.append_assoc, List.append_assoc]
  rfl

/-- The handle of a new binding names the action bound. -/
theorem Bound.names {t : State} {h : Handle} {a : Action} (bound : s.Bound t h a) : t.action? h = some a := by
  obtain ⟨i, -, handle, entry⟩ := bound.entry
  obtain ⟨generation, index⟩ := (makeHandle_iff _ _ _).1 handle
  unfold State.action?
  rw [← index, entry, if_pos rfl]
  exact if_pos generation

/-- A binding leaves the item's state. -/
theorem Bound.item {t : State} {h : Handle} {a : Action} (bound : s.Bound t h a) {it : Item}
    (found : s.item? a.item = some it) : t.item? a.item = some { it with actions := it.actions ++ [h] } := by
  have items : t.items = (s.updItem a.item fun r => { r with actions := r.actions ++ [h] }).items := bound.items
  rw [item_congr items, item_updItem (hf := by intro _; rfl), found, Option.map_some, if_pos (number_of_item found)]

/-- An action just bound to an item that is not LEAVING ends without step 5 of R93. -/
theorem Bound.ends {t : State} {h : Handle} {a : Action} (bound : s.Bound t h a) {it : Item}
    (found : s.item? a.item = some it) (stays : it.state ≠ .leaving) (p : Port) (code seq : Byte) (r : Result)
    (payload : List Byte) (o : ActionOutcome) :
    (t.placeReply p code seq r payload).Ended ((t.placeReply p code seq r payload).endAction h o) h a o := by
  refine (endAction_whole (s := t.placeReply p code seq r payload) o bound.names).1 fun x completes => ?_
  obtain ⟨now, leaving, -⟩ := completes
  have same := (bound.item found).symm.trans now
  cases same
  exact stays leaving

/-! ### The post (R82, R83) -/

theorem PostPasses.taking {it : Item} {fire : Offset} {z : Condition} (passes : s.PostPasses it fire z) (p : Port)
    (rest : List Frame) : (s.taking p rest).PostPasses it fire z :=
  ⟨passes.near, passes.ahead, passes.voter, passes.order, passes.limit⟩

theorem postOn_of_passes {p : Port} {b : PostBlock} {it : Item} (passes : s.PostPasses it b.fire b.condition)
    (free : s.actions.freeList ≠ []) : s.postOn p b it =
      s.conflictOrPost p b (decideCondition it.slots b.condition) (it.base + b.fire.setWidth 32) := by
  obtain ⟨near, ahead, voter, order, limit⟩ := passes
  rw [postOn_eq, require_of_pass (decide_eq_true near), require_of_pass ((s.isAhead_iff _).2 ahead),
    require_of_pass ((namesVoter_iff _ _).2 voter), require_of_pass ((afterDecisions_iff _ _ _).2 order),
    require_of_pass (decide_eq_true limit), require_of_pass (by simpa using free)]

theorem conflictOrPost_of_fails {cond : CondState} (fails : cond = .fails) (p : Port) (b : PostBlock) (point : Position) :
    s.conflictOrPost p b cond point = s.takePost p b cond point [] :=
  if_pos fails

theorem conflictOrPost_of_overlap {cond : CondState} (notFails : cond ≠ .fails) {p : Port} {b : PostBlock} {point : Position}
    {first : Action} (check : s.conflictCheck b.channel (.station p) point b.width = .overlap first) :
    s.conflictOrPost p b cond point = ⟨s, .overlap, be16 first.handle ++ [flagByte first.firing], []⟩ := by
  rw [State.conflictOrPost, if_neg notFails, check]

theorem conflictOrPost_of_accepted {cond : CondState} (notFails : cond ≠ .fails) {p : Port} {b : PostBlock} {point : Position}
    {displaced : List Handle} (check : s.conflictCheck b.channel (.station p) point b.width = .accepted displaced) :
    s.conflictOrPost p b cond point = s.takePost p b cond point displaced := by
  rw [State.conflictOrPost, if_neg notFails, check]

end State

/-- Settles O35: by whether the condition is FALSE, and then by what the conflict check of the channel's policy finds. -/
theorem postActionBindsTheAction : Obligations.PostActionBindsTheAction := by
  unfold Obligations.PostActionBindsTheAction
  intro s p seq rest n c fire w v x q tag it waits attached nonzero notCounts notTime leased found stays passes free
  have answer : exec (.postAction p) s = .next
      ((postActionBody p (s.taking p rest) (postBlock n c fire w v x q tag)).finish p 0x40 seq) :=
    exec_attached waits attached rfl
  have read := readPostBlock_postBlock n c fire w v x q tag
  rw [if_pos ⟨nonzero, notCounts, notTime⟩] at read
  rw [postActionBody_of_block read, requireChannel_of_leased (s := s.taking p rest) leased] at answer
  dsimp only at answer
  rw [postable_of_item (s := s.taking p rest) found stays] at answer
  dsimp only at answer
  rw [State.postOn_of_passes (b := ⟨n, c, fire, w, x, tag⟩) (passes.taking p rest) free] at answer
  dsimp only at answer ⊢
  rw [answer]
  have taken := State.takePost_bound (s := s.taking p rest) free p ⟨n, c, fire, w, x, tag⟩ (decideCondition it.slots x)
    (it.base + fire.setWidth 32)
  refine ⟨fun fails => ?_, fun notFails accepted => ?_, fun notFails first more overlaps policy => ?_,
    fun notFails first more overlaps policy => ⟨fun outranked => ?_, fun displaces => ?_⟩⟩
  · obtain ⟨h, u, bound, post⟩ := taken []
    rw [State.conflictOrPost_of_fails fails, post, if_pos fails]
    exact ⟨h, u, _, bound, bound.ends found stays .., rfl⟩
  · obtain ⟨h, u, bound, post⟩ := taken []
    rw [State.conflictOrPost_of_accepted notFails (State.conflictCheck_of_free accepted), post, if_neg notFails]
    exact ⟨h, u, bound, rfl⟩
  · rw [State.conflictOrPost_of_overlap notFails (State.conflictCheck_of_refuse overlaps policy), flagByte_firing]
    rfl
  · have check := State.conflictCheck_of_outranked (s := s.taking p rest) (y := .station p) overlaps policy outranked
    rw [State.conflictOrPost_of_overlap notFails check, flagByte_firing]
    rfl
  · have check := State.conflictCheck_of_displaces (s := s.taking p rest) (y := .station p) overlaps policy displaces
    obtain ⟨h, u, bound, post⟩ := taken (((s.taking p rest).conflicts c (it.base + fire.setWidth 32) w).map Action.handle)
    rw [State.conflictOrPost_of_accepted notFails check, post, if_neg notFails, List.length_map]
    exact ⟨_, h, u, State.endActions_inTurn .displaced _ _, bound, rfl⟩

end Sys2Proof.Machine
end
